-- ==== Sys2Proof/Word.lean ====
section
/-! DEFINITION. The word types of the block's ports and operands (spec 10_state.md R14 and R15, 20_memory.md R19). -/

namespace Sys2Proof

/-- One byte of an operand buffer (20_memory.md R19). -/
abbrev Byte := BitVec 8

/-- A value of the command port CMD[15:0] (10_state.md R14, 30_encoding.md R34). -/
abbrev Cmd := BitVec 16

/-- A value of one of the 128-bit ports A, B and RES (10_state.md R14 and R15). -/
abbrev Port := BitVec 128

/-- A value of the output STATUS[1:0] (10_state.md R15). -/
abbrev StatusCode := BitVec 2

/-- The word MATCH4 reads and the value MASK32 derives (20_memory.md R25, 40_mask_derivation.md R49). -/
abbrev Word32 := BitVec 32

/-- The word MATCH6 reads and the value MASK64 derives (20_memory.md R25, 40_mask_derivation.md R50). -/
abbrev Word64 := BitVec 64

end Sys2Proof
end

