-- ==== Sys2Proof/Config.lean ====
section
/-! DEFINITION. What is fixed for the block (00_scope.md R5 and R6) and the values the spec leaves open
(93_implementation_defined.md section 1), which have no body, so that no proof can see one. -/

namespace Sys2Proof.Config

/-- `ADDR4_BYTES`: the bytes of an IPv4 address (00_scope.md R5). -/
abbrev addr4Bytes : Nat := 4

/-- `ADDR6_BYTES`: the bytes of an IPv6 address (00_scope.md R5). -/
abbrev addr6Bytes : Nat := 16

/-- `W32`: the width of MASK32's result (00_scope.md R5). -/
abbrev w32 : Nat := 32

/-- `W64`: the width of MASK64's result and of each half of an IPv6 address (00_scope.md R5). -/
abbrev w64 : Nat := 64

/-- `MAXP4`: the largest valid IPv4 prefix length (00_scope.md R5). -/
abbrev maxP4 : Nat := 32

/-- `MAXP6`: the largest valid IPv6 prefix length (00_scope.md R5). -/
abbrev maxP6 : Nat := 128

/-- `PREFIX_W`: the width of the prefix field of CMD (00_scope.md R6). -/
abbrev prefixW : Nat := 8

/-- `LATENCY`: the open parameter of 70_reset_and_hazards.md R86, a whole number of time units.
"No rule of this spec depends on it", so no definition of the model reads it. -/
opaque latency : Nat

/-- FREE VALUE. What the RES port shows after a faulting evaluation (60_exceptions.md R69: "the port may
show any 128-bit value"). The argument is the counter `State.draws`, which every fault advances, so two
faults need not show the same value. DESIGN CHOICE, notes/assumptions/2.md. -/
opaque freeRes : Nat → Port

/-- FREE VALUE. STATUS before the host has presented any inputs (70_reset_and_hazards.md R82).
DESIGN CHOICE, notes/assumptions/3.md. -/
opaque powerUpStatus : StatusCode

/-- FREE VALUE. RES before the host has presented any inputs (70_reset_and_hazards.md R82).
DESIGN CHOICE, notes/assumptions/3.md. -/
opaque powerUpRes : Port

end Sys2Proof.Config
end

