-- ==== Sys2Proof/Syntax.lean ====
section
/-! DEFINITION. The block's operations, one constructor per row of opcode_table.json. -/

namespace Sys2Proof

/-- The four operations of 30_encoding.md R36, "the whole command set" (60_exceptions.md R76).
The argument is the prefix length `p`, an integer (30_encoding.md R37); `wellFormed` says when the 8-bit
field PFX can carry it. The addresses are not part of a command: they are on the ports A and B (R34). -/
inductive Instr where
  /-- MASK32, unit `subnet_mask_gen_32` (40_mask_derivation.md R49). -/
  | mask32 (p : Nat)
  /-- MASK64, unit `subnet_mask_gen_64` (40_mask_derivation.md R50). -/
  | mask64 (p : Nat)
  /-- MATCH4, unit `ipv4_subnet_matcher` (41_address_matchers.md R55). -/
  | match4 (p : Nat)
  /-- MATCH6, unit `ipv6_subnet_matcher` (41_address_matchers.md R56). -/
  | match6 (p : Nat)
  deriving DecidableEq, Repr

end Sys2Proof
end

