-- ==== Sys2Proof/WellFormed.lean ====
section
/-! DEFINITION. When an operation has an encoding (00_scope.md R6). -/

namespace Sys2Proof

/-- The prefix length of an operation. -/
def Instr.prefixLength : Instr → Nat
  | .mask32 p => p
  | .mask64 p => p
  | .match4 p => p
  | .match6 p => p

/-- An operation can be presented when its prefix length fits the unsigned field PFX. "A software value
above 255 has no encoding; the host must refuse it before issuing" (00_scope.md R6). A prefix length that
fits but lies outside the operation's range is well-formed: it "decode[s] but fault[s]" (30_encoding.md R43). -/
def Instr.wellFormed (i : Instr) : Bool :=
  decide (i.prefixLength < 2 ^ Config.prefixW)

end Sys2Proof
end

