-- ==== Sys2Proof/Decode.lean ====
section
/-! DEFINITION. The decoder of a command word and, after it, the encoder (30_encoding.md R34 to R38 and R47). -/

namespace Sys2Proof

/-- `RSV`, CMD[15:10] (30_encoding.md R35). -/
def rsvField (cmd : Cmd) : BitVec 6 := cmd.extractLsb' 10 6

/-- `OP`, CMD[9:8] (30_encoding.md R35). -/
def opField (cmd : Cmd) : BitVec 2 := cmd.extractLsb' 8 2

/-- `PFX`, CMD[7:0] (30_encoding.md R35). -/
def pfxField (cmd : Cmd) : BitVec 8 := cmd.extractLsb' 0 8

/-- Why a command word is no operation. The spec has one reason: "These are the only illegal encodings"
(30_encoding.md R38). -/
inductive DecodeError where
  /-- A reserved bit is set: CMD[15:10] is not 0. It holds that field's value. -/
  | reservedBits (rsv : BitVec 6)
  deriving DecidableEq, Repr

/-- The operation an OP value selects (30_encoding.md R36); all four values are defined. -/
def instrOf (op : BitVec 2) (p : Nat) : Instr :=
  match op.toFin with
  | 0 => .mask32 p
  | 1 => .mask64 p
  | 2 => .match4 p
  | 3 => .match6 p

/-- Decoding of a command word, total on all 2^16 words: reserved bits first, then OP and PFX, the prefix
zero-extended to an integer (30_encoding.md R37, R38 and R47). -/
def decode (cmd : Cmd) : Except DecodeError Instr :=
  if rsvField cmd = 0#6 then
    .ok (instrOf (opField cmd) (pfxField cmd).toNat)
  else
    .error (.reservedBits (rsvField cmd))

/-- The OP value of an operation (30_encoding.md R36). -/
def Instr.opcode : Instr → BitVec 2
  | .mask32 _ => 0b00#2
  | .mask64 _ => 0b01#2
  | .match4 _ => 0b10#2
  | .match6 _ => 0b11#2

/-- The command word of a well-formed operation: the pattern `000000oopppppppp` of 30_encoding.md R35. -/
def encode (i : Instr) : Cmd :=
  0b000000#6 ++ i.opcode ++ BitVec.ofNat 8 i.prefixLength

/-- The operation the decoder reads from a word of `nbits` bits of opcode_table.json. The block has one
16-bit command format and no byte order for it (30_encoding.md R34, 20_memory.md R23), so the bits are those
of CMD and the bits above `nbits` are 0. -/
def decodeTableWord (nbits w : Nat) : Option Instr :=
  if nbits ≤ 16 ∧ w < 2 ^ nbits then
    match decode (BitVec.ofNat 16 w) with
    | .ok i => some i
    | .error _ => none
  else none

end Sys2Proof
end

