-- ==== Sys2Proof/Machine/State.lean ====
section
/-! DEFINITION. The block's own state, which is the unit type (10_state.md R7), and beside it what a step without an
argument must find in its state: the interface signals, the evaluations the host will present, and the host's record of
the evaluations made: notes/assumptions/1.md. -/

namespace Sys2Proof.Machine

/-- The two faults of the block (60_exceptions.md R66, "The block raises exactly two faults"). -/
inductive FaultKind where
  /-- The prefix length is outside the operation's valid range (60_exceptions.md R67). -/
  | invalidPrefix
  /-- A reserved CMD bit is set (60_exceptions.md R68). -/
  | illegalCommand
  deriving DecidableEq, Repr

/-- The outcome of an evaluation (00_scope.md section 4, "Outcome"): a result, or a fault, which carries no
result (60_exceptions.md R70). -/
inductive EvalOutcome where
  /-- STATUS = OK and RES = `res`. -/
  | ok (res : Port)
  /-- STATUS is the code of `k` and RES has no defined value. -/
  | fault (k : FaultKind)
  deriving DecidableEq, Repr

/-- The state of the block: "In Lean the machine state is the unit type" (10_state.md R7). It has no register, no
memory and no control field, and its list of reset values is empty (R8 to R12, 70_reset_and_hazards.md R81). -/
abbrev BlockState := Unit

/-- The inputs of one evaluation: the command and the operands, "inputs of the step, not machine state"
(10_state.md R14 and R18). -/
structure Inputs where
  /-- The command word CMD. -/
  cmd : Cmd
  /-- The candidate port A. -/
  a : Port
  /-- The pattern port B. -/
  b : Port
  deriving DecidableEq, Repr

/-- One evaluation as the host presents it: its inputs, and whether the host keeps its one timing duty. -/
structure Presentation where
  /-- The command word CMD. -/
  cmd : Cmd
  /-- The candidate port A. -/
  a : Port
  /-- The pattern port B. -/
  b : Port
  /-- Whether the host holds CMD, A and B stable until it has sampled the outputs
  (70_reset_and_hazards.md R85). -/
  held : Bool
  deriving DecidableEq, Repr

/-- The inputs of a presentation. -/
def Presentation.inputs (e : Presentation) : Inputs := ⟨e.cmd, e.a, e.b⟩

/-- The block, its ports, and the host's side of a run. The block's own part is `block`, the unit type; the ports show
the evaluation a step makes and no later step reads them. -/
structure State where
  /-- The block's own state: nothing (10_state.md R7). -/
  block : BlockState
  /-- Input CMD[15:0] (10_state.md R14). -/
  cmd : Cmd
  /-- Input A[127:0] (10_state.md R14). -/
  a : Port
  /-- Input B[127:0] (10_state.md R14). -/
  b : Port
  /-- Output STATUS[1:0] (10_state.md R15). -/
  status : StatusCode
  /-- Output RES[127:0] (10_state.md R15). -/
  res : Port
  /-- MODEL'S OWN. The evaluations the host will still present, in its order (10_state.md R9: "The order of
  operations is decided by the host"; 95_test_vectors.md section 3: a program is "a sequence of evaluations
  issued by a host"). -/
  queue : List Presentation
  /-- MODEL'S OWN. The outcomes of the evaluations made, oldest first (60_exceptions.md R70: "A model that
  records a history records the fault as an event that the host's run keeps"). -/
  trace : List EvalOutcome
  /-- MODEL'S OWN. The counter that gives each fault its own free value on RES (notes/assumptions/2.md). -/
  draws : Nat
  deriving DecidableEq, Repr

/-- The inputs on the ports, which the host holds for the whole evaluation (10_state.md R14). -/
def State.inputs (s : State) : Inputs := ⟨s.cmd, s.a, s.b⟩

/-- Why the machine stops. The block's own faults are not here: they complete an evaluation, with a code on
STATUS, and the next evaluation goes on (60_exceptions.md R69 and R74; notes/assumptions/5.md). -/
inductive Fault where
  /-- Raised by `step` when the host did not hold CMD, A and B stable for the evaluation
  (70_reset_and_hazards.md R85: "A model must treat that case as a host fault and must not pick the old or the
  new value"). SAFE: the model stops where the block goes on with outputs that have no meaning. -/
  | inputsChanged
  deriving DecidableEq, Repr

/-- Why the model gives no meaning. -/
inductive Refusal where
  /-- Raised by no arm: every operation of opcode_table.json has its meaning. The constructor is the one the
  host's files name. SAFE: the model stops. -/
  | notModelled (mnemonic : String)
  deriving DecidableEq, Repr

/-- The machine after power-up (70_reset_and_hazards.md R81 and R82): no evaluation presented, none made. STATUS
and RES then have no defined value, so they are free; CMD, A and B are 0, DESIGN CHOICE, notes/assumptions/3.md. -/
def State.reset : State where
  block := ()
  cmd := 0#16
  a := 0#128
  b := 0#128
  status := Config.powerUpStatus
  res := Config.powerUpRes
  queue := []
  trace := []
  draws := 0

end Sys2Proof.Machine
end

