-- ==== Sys2Proof/Machine/Operands.lean ====
section
/-! DEFINITION. Operand assembly: the prefix check (60_exceptions.md R67), the operand buffers on the ports A and B
(20_memory.md R19 to R22) and the big-endian word read (R24 and R25). -/

namespace Sys2Proof.Machine

/-- An operand buffer: bytes in network order, indexed from 0 (20_memory.md R19). It is a view of a port; no
field of `State` holds one. -/
abbrev Buffer (len : Nat) := Fin len → Byte

/-- The 4-byte buffer on a port: `X.b[i] = port[31-8i : 24-8i]` (20_memory.md R21). Bits 127:32 are in no buffer. -/
def buffer4 (port : Port) : Buffer Config.addr4Bytes :=
  fun i => port.extractLsb' (24 - 8 * i.val) 8

/-- The 16-byte buffer on a port: `X.b[i] = port[127-8i : 120-8i]` (20_memory.md R21). -/
def buffer16 (port : Port) : Buffer Config.addr6Bytes :=
  fun i => port.extractLsb' (120 - 8 * i.val) 8

/-- The sum of 20_memory.md R24 over the `n` bytes from offset `k`: byte `k` has the greatest weight. -/
def memSum {len : Nat} (x : Buffer len) (k : Nat) : (n : Nat) → k + n ≤ len → Nat
  | 0, _ => 0
  | n + 1, h => (x ⟨k, by omega⟩).toNat * 2 ^ (8 * n) + memSum x (k + 1) n (by omega)

/-- `MemRead(X, k, n)` (00_scope.md section 4, 20_memory.md R24). The bound is an argument, so an access beyond
the buffer, which a model should refuse, cannot be written down. -/
def memRead {len : Nat} (x : Buffer len) (k n : Nat) (h : k + n ≤ len) : BitVec (8 * n) :=
  BitVec.ofNat (8 * n) (memSum x k n h)

/-- MATCH4's read of a whole IPv4 address, `MemRead(X, 0, 4)` (20_memory.md R25). -/
def ipv4Word (x : Buffer Config.addr4Bytes) : Word32 := memRead x 0 4 (by decide)

/-- MATCH6's read of an upper word, `MemRead(X, 0, 8)` (20_memory.md R25). -/
def ipv6Upper (x : Buffer Config.addr6Bytes) : Word64 := memRead x 0 8 (by decide)

/-- MATCH6's read of a lower word, `MemRead(X, 8, 8)` (20_memory.md R25). -/
def ipv6Lower (x : Buffer Config.addr6Bytes) : Word64 := memRead x 8 8 (by decide)

/-- The range check every operation makes first (60_exceptions.md R67): a prefix length above `maxP` is the fault
INVALID_PREFIX, any other goes on, as a number that carries its bound. -/
def checkPrefix (maxP p : Nat) (k : Fin (maxP + 1) → EvalOutcome) : EvalOutcome :=
  if h : p ≤ maxP then k ⟨p, Nat.lt_succ_of_le h⟩ else .fault .invalidPrefix

end Sys2Proof.Machine
end

