-- ==== Sys2Proof/Machine/Flags.lean ====
section
/-! DEFINITION. The encodings of the two outputs: STATUS, the block's only flag (30_encoding.md R42), and RES (R41). -/

namespace Sys2Proof.Machine

/-- The STATUS code of an outcome (30_encoding.md R42). Code `11` is never produced. -/
def statusOf : EvalOutcome → StatusCode
  | .ok _ => 0b00#2
  | .fault .invalidPrefix => 0b01#2
  | .fault .illegalCommand => 0b10#2

/-- What a STATUS code says. -/
inductive Status where
  /-- The operation completed and RES is defined. -/
  | ok
  /-- The evaluation faulted and RES has no defined value. -/
  | fault (k : FaultKind)
  deriving DecidableEq, Repr

/-- Reading a recorded STATUS code. "A model that decodes a recorded STATUS of `11` must `refuse` it"
(93_implementation_defined.md section 1), so that code reads as nothing. -/
def readStatus (code : StatusCode) : Option Status :=
  match code.toFin with
  | 0 => some .ok
  | 1 => some (.fault .invalidPrefix)
  | 2 => some (.fault .illegalCommand)
  | 3 => none

/-- RES of MASK32 and MASK64: the mask in the low bits, 0 above (30_encoding.md R41). The mask is presented as a
value, never byte-swapped (40_mask_derivation.md R52). -/
def packMask {w : Nat} (mask : BitVec w) : Port := mask.setWidth 128

/-- RES of MATCH4 and MATCH6: 1 or 0 in bit 0, the other bits 0 (30_encoding.md R41). -/
def packMatch (matched : Bool) : Port := if matched then 1#128 else 0#128

end Sys2Proof.Machine
end

