-- ==== Sys2Proof/Machine/Ops.lean ====
section
/-! DEFINITION. The shared operations on the ports: presenting inputs, driving the outputs with a result, and
raising a fault. -/

namespace Sys2Proof.Machine

/-- The answer of a step or of a meaning. -/
abbrev Result := Host.Outcome State Fault Refusal

/-- The host presents the inputs of an evaluation, with `rest` still to present (10_state.md R14). All bytes of
an evaluation come from this one snapshot (20_memory.md R28). -/
def State.present (s : State) (e : Presentation) (rest : List Presentation) : State :=
  { s with cmd := e.cmd, a := e.a, b := e.b, queue := rest }

/-- The command `w` in place of the next one the host presents, on that presentation's operands. Where the host
presents nothing there are no operands to keep, and both are 0: DESIGN CHOICE, notes/assumptions/10.md. Operands of an
earlier evaluation are never taken (10_state.md R18). -/
def withCommand (w : Cmd) : List Presentation → List Presentation
  | [] => [⟨w, 0#128, 0#128, true⟩]
  | e :: rest => ⟨w, e.a, e.b, true⟩ :: rest

/-- An evaluation completes with a result: STATUS = OK and RES = `r` (30_encoding.md R41 and R42). -/
def State.complete (s : State) (r : Port) : State :=
  { s with status := statusOf (.ok r), res := r, trace := s.trace ++ [.ok r] }

/-- TAKING A FAULT, the one shared operation (60_exceptions.md R69, R70 and R73). STATUS shows the fault's code, RES
any value, the run keeps the fault as an event, and nothing else changes: there is no trap, no saved state and no
mode. There is no return from it either, since "there is no return-from-trap operation and nothing to restore"
(R74): the next evaluation depends only on its own inputs. -/
def State.raise (s : State) (k : FaultKind) : State :=
  { s with
    status := statusOf (.fault k)
    res := Config.freeRes s.draws
    draws := s.draws + 1
    trace := s.trace ++ [.fault k] }

/-- The outputs follow the outcome of the evaluation (30_encoding.md R47: "STATUS and RES are then set from the
outcome"). -/
def State.drive (s : State) : EvalOutcome → State
  | .ok r => s.complete r
  | .fault k => s.raise k

/-- One operation made on the inputs of its evaluation. The operation is a function of those inputs alone
(10_state.md R13 and R18), and the outputs follow its outcome. -/
def State.react (s : State) (op : Inputs → EvalOutcome) : Result := .next (s.drive (op s.inputs))

/-- What a host may read from RES: the result when the last evaluation's STATUS is OK, and nothing when it faulted
(60_exceptions.md R70) or when none was made (70_reset_and_hazards.md R82). -/
def State.readRes (s : State) : Option Port :=
  match s.trace.getLast?, readStatus s.status with
  | some _, some .ok => some s.res
  | _, _ => none

end Sys2Proof.Machine
end

