-- ==== Sys2Proof/Machine/Mask.lean ====
section
/-! DEFINITION. Mask derivation: `topmask`, MATCH6's helper `mask64_sat`, and the operations MASK32 and MASK64
(40_mask_derivation.md). -/

namespace Sys2Proof.Machine

/-- `topmask_W(n)` by its arithmetic definition, 2^W - 2^(W-n) (00_scope.md section 4, 40_mask_derivation.md R48).
It is undefined outside 0..W, so `n` carries that bound and the shift formula is never evaluated. -/
def topmask (W : Nat) (n : Fin (W + 1)) : BitVec W :=
  BitVec.ofNat W (2 ^ W - 2 ^ (W - n.val))

/-- `mask64_sat(n)`: the mask of one half of an IPv6 address, for any integer (40_mask_derivation.md R51, following
90_conflicts.md C1, C2 and C4). -/
def mask64Sat (n : Int) : Word64 :=
  if n ≤ 0 then 0#64
  else if h : 64 ≤ n then BitVec.ofNat 64 (2 ^ 64 - 1)
  else topmask Config.w64 ⟨n.toNat, by simp only [Config.w64]; omega⟩

/-- The outcome of MASK32 (40_mask_derivation.md R49). -/
def mask32 (p : Nat) : EvalOutcome :=
  checkPrefix Config.w32 p fun n => .ok (packMask (topmask Config.w32 n))

/-- The outcome of MASK64 (40_mask_derivation.md R50). -/
def mask64 (p : Nat) : EvalOutcome :=
  checkPrefix Config.w64 p fun n => .ok (packMask (topmask Config.w64 n))

/-- MASK32 (40_mask_derivation.md R49). It reads no operand (30_encoding.md R40). -/
def execMask32 (p : Nat) (s : State) : Result := s.react fun _ => mask32 p

/-- MASK64 (40_mask_derivation.md R50). It reads no operand (30_encoding.md R40). -/
def execMask64 (p : Nat) (s : State) : Result := s.react fun _ => mask64 p

end Sys2Proof.Machine
end

