-- ==== Sys2Proof/Machine/Match.lean ====
section
/-! DEFINITION. The address matchers MATCH4 and MATCH6 (41_address_matchers.md). -/

namespace Sys2Proof.Machine

/-- The comparison of two masked words (00_scope.md glossary, "Wildcard match"). -/
def maskedEq {w : Nat} (m c t : BitVec w) : Bool := (m &&& c) == (m &&& t)

/-- The outcome of MATCH4 on a candidate `c` and a pattern `t` (41_address_matchers.md R55). -/
def match4 (p : Nat) (c t : Buffer Config.addr4Bytes) : EvalOutcome :=
  checkPrefix Config.maxP4 p fun n =>
    .ok (packMatch (maskedEq (topmask Config.w32 n) (ipv4Word c) (ipv4Word t)))

/-- The outcome of MATCH6 on a candidate `c` and a pattern `t`: one mask for each half, `p - 64` over the
integers (41_address_matchers.md R56). -/
def match6 (p : Nat) (c t : Buffer Config.addr6Bytes) : EvalOutcome :=
  checkPrefix Config.maxP6 p fun n =>
    let mu := mask64Sat n.val
    let ml := mask64Sat ((n.val : Int) - 64)
    .ok (packMatch (maskedEq mu (ipv6Upper c) (ipv6Upper t) && maskedEq ml (ipv6Lower c) (ipv6Lower t)))

/-- MATCH4: candidate on A[31:0], pattern on B[31:0] (41_address_matchers.md R55, 30_encoding.md R39). -/
def execMatch4 (p : Nat) (s : State) : Result :=
  s.react fun x => match4 p (buffer4 x.a) (buffer4 x.b)

/-- MATCH6: candidate on A, pattern on B (41_address_matchers.md R56, 30_encoding.md R39). -/
def execMatch6 (p : Nat) (s : State) : Result :=
  s.react fun x => match6 p (buffer16 x.a) (buffer16 x.b)

end Sys2Proof.Machine
end

