-- ==== Sys2Proof/Machine/Dispatch.lean ====
section
/-! DEFINITION. One arm per operation: 30_encoding.md R36 and R47. -/

namespace Sys2Proof.Machine

/-- The meaning of each operation on the ports. -/
def exec (i : Instr) (s : State) : Host.Outcome State Fault Refusal :=
  match i with
  | .mask32 p => Sys2Proof.Machine.execMask32 p s
  | .mask64 p => Sys2Proof.Machine.execMask64 p s
  | .match4 p => Sys2Proof.Machine.execMatch4 p s
  | .match6 p => Sys2Proof.Machine.execMatch6 p s

end Sys2Proof.Machine
end

