-- ==== Sys2Proof/Machine/Step.lean ====
section
/-! DEFINITION. One step: the host presents the next inputs and the block evaluates them, atomically and without
time (70_reset_and_hazards.md R86). -/

namespace Sys2Proof.Machine

/-- The evaluation of the inputs on the ports: a legal command runs its operation, an illegal one raises
ILLEGAL_COMMAND and performs no operation (30_encoding.md R38 and R47). -/
def evaluate (s : State) : Host.Outcome State Fault Refusal :=
  match decode s.cmd with
  | .ok i => exec i s
  | .error (.reservedBits _) => .next (s.raise .illegalCommand)

/-- One evaluation, of the next inputs in the host's order. Inputs that the host did not hold stable are a host
fault (70_reset_and_hazards.md R85). With nothing to present no evaluation happens and nothing changes: DESIGN
CHOICE, notes/assumptions/4.md. -/
def step (s : State) : Host.Outcome State Fault Refusal :=
  match s.queue with
  | [] => .next s
  | e :: rest => if e.held then evaluate (s.present e rest) else .fault .inputsChanged

/-- The command word `w` as the command the host presents next, its inputs held. The block fetches nothing
(20_memory.md R33): the queue of presentations is where `step` takes its command from. -/
def State.withFetchWord (s : State) (nbits w : Nat) : State :=
  { s with queue := withCommand (BitVec.ofNat 16 (w % 2 ^ nbits)) s.queue }

end Sys2Proof.Machine
end

