-- ==== Sys2Proof/Machine/Assembler.lean ====
section
/-! DEFINITION. The assembly language the spec fixes for test programs (30_encoding.md R45 and R46), as the host's
way to form presentations. Numbers are already read: the text form is out of scope (00_scope.md R4). -/

namespace Sys2Proof.Machine

/-- One line of assembly (30_encoding.md R45). There are no pseudo-instructions (R46). -/
inductive AsmLine where
  /-- `mask32 <p>` -/
  | mask32 (p : Nat)
  /-- `mask64 <p>` -/
  | mask64 (p : Nat)
  /-- `match4 <p>, <candidate>, <pattern>` -/
  | match4 (p candidate pattern : Nat)
  /-- `match6 <p>, <candidate>, <pattern>` -/
  | match6 (p candidate pattern : Nat)
  /-- `.cmd <hex16>, <candidate>, <pattern>`, a raw CMD word -/
  | cmd (word candidate pattern : Nat)
  deriving DecidableEq, Repr

/-- Presenting an operation: refused when the prefix length has no encoding (00_scope.md R6, "the host must refuse
it before issuing"). -/
def issue (i : Instr) (a b : Port) : Option Presentation :=
  if i.wellFormed then some ⟨encode i, a, b, true⟩ else none

/-- A hexadecimal integer of at most `bits` bits, placed on a port as written (30_encoding.md R45). -/
def asPort (bits n : Nat) : Option Port :=
  if n < 2 ^ bits then some (BitVec.ofNat 128 n) else none

/-- Assembling one line (30_encoding.md R45). `anyA` and `anyB` are the values the ports hold when the line names
none: "For mask32 and mask64, A and B are left at any value". -/
def assemble (anyA anyB : Port) : AsmLine → Option Presentation
  | .mask32 p => issue (.mask32 p) anyA anyB
  | .mask64 p => issue (.mask64 p) anyA anyB
  | .match4 p c t => do issue (.match4 p) (← asPort 32 c) (← asPort 32 t)
  | .match6 p c t => do issue (.match6 p) (← asPort 128 c) (← asPort 128 t)
  | .cmd w c t => do
    let a ← asPort 128 c
    let b ← asPort 128 t
    if w < 2 ^ 16 then some ⟨BitVec.ofNat 16 w, a, b, true⟩ else none

/-- Assembling a program: a sequence of evaluations (95_test_vectors.md section 3). -/
def assembleProgram (anyA anyB : Port) : List AsmLine → Option (List Presentation)
  | [] => some []
  | l :: ls => do
    let e ← assemble anyA anyB l
    let es ← assembleProgram anyA anyB ls
    return e :: es

/-- The host adds evaluations after those it was going to present (41_address_matchers.md R65: "The host alone
decides what to issue next"). -/
def State.load (s : State) (es : List Presentation) : State :=
  { s with queue := s.queue ++ es }

end Sys2Proof.Machine
end

