-- ==== Sys2Proof/Machine/Eval.lean ====
section
/-! DEFINITION. The block as the one function the spec gives it (10_state.md R13), written from its procedure on
the bits of CMD (30_encoding.md R47), beside the decoder and the dispatch that `step` runs. -/

namespace Sys2Proof.Machine

/-- `Eval(CMD, A, B)` (30_encoding.md R47): reserved bits are checked first, then OP selects one of four
operations. -/
def eval (cmd : Cmd) (a b : Port) : EvalOutcome :=
  if cmd.extractLsb' 10 6 ≠ 0#6 then .fault .illegalCommand
  else
    let p := (cmd.extractLsb' 0 8).toNat
    match (cmd.extractLsb' 8 2).toFin with
    | 0 => mask32 p
    | 1 => mask64 p
    | 2 => match4 p (buffer4 a) (buffer4 b)
    | 3 => match6 p (buffer16 a) (buffer16 b)

/-- The block as a machine: its state is the unit type, its operands are inputs of the step, and the outcome is `Eval`
of them (10_state.md R7, R13 and R18). Nothing else reaches it and nothing survives it. -/
def blockStep (q : BlockState) (x : Inputs) : BlockState × EvalOutcome := (q, eval x.cmd x.a x.b)

end Sys2Proof.Machine
end

