-- ==== Sys2Proof/Safety.lean ====
section
/-! DEFINITION. What a run may be judged by: its host's duties, its recorded faults, and the agreement of the output
ports with the inputs. -/

namespace Sys2Proof.Machine

/-- An outcome that is a result. -/
def EvalOutcome.isOk : EvalOutcome → Bool
  | .ok _ => true
  | .fault _ => false

/-- A good final state: "a run with a recorded fault is not a good final state" (60_exceptions.md R70). -/
def State.good (s : State) : Bool := s.trace.all EvalOutcome.isOk

/-- The host's one timing duty, for everything it will still present (70_reset_and_hazards.md R85). -/
abbrev State.HostHolds (s : State) : Prop := ∀ e ∈ s.queue, e.held = true

/-- From the first evaluation on, the outputs are `Eval` of the current inputs (70_reset_and_hazards.md R82): the
last recorded outcome is that of the inputs on the ports, STATUS is its code, and RES its result if it has one. -/
def State.PortsAgree (s : State) : Prop :=
  ∀ o, s.trace.getLast? = some o →
    o = eval s.cmd s.a s.b ∧ s.status = statusOf o ∧ ∀ r, o = .ok r → s.res = r

/-- The operation answers STATUS = OK with `v` on RES. A claim reads RES only through such an answer
(60_exceptions.md R70). -/
def Gives (i : Instr) (s : State) (v : Port) : Prop :=
  ∃ t, exec i s = .next t ∧ t.status = 0b00#2 ∧ t.res = v

end Sys2Proof.Machine
end

