-- ==== Sys2Proof/Certificates/Slice0/Obligations.lean ====
section
/-! DEFINITION. The statements for the provers, from the numbered rules of spec/. A statement about a step takes the
inputs the host presents next as `s.queue = e :: rest` with `e.held = true` (70_reset_and_hazards.md R85). RES after a
fault is a free value, so a statement about a fault says `∃ r` for it. `queue` and `trace` are the model's own
bookkeeping of the host's run (notes/assumptions/1.md) and `draws` its counter of free values (notes/assumptions/2.md);
that a fault of the block is a next state is notes/assumptions/5.md. Clauses on these are the model's, not a rule's: a
statement that holds one has basis derived and its docstring names the log entries. -/

open Sys2Proof Sys2Proof.Machine

/-! ### Encoding -/

/-- Words written out from the pattern `000000oopppppppp` (30_encoding.md R35 and R36) and from the vectors of
95_test_vectors.md: K32-5, K64-5, W1, W4, and the reserved words X-1 and X-3. -/
def Obligations.WordsDecodeAsWritten : Prop :=
  decode 0b0000000000011000#16 = .ok (.mask32 24) ∧
  decode 0b0000000101000000#16 = .ok (.mask64 64) ∧
  decode 0b0000001000011000#16 = .ok (.match4 24) ∧
  decode 0b0000001100100000#16 = .ok (.match6 32) ∧
  decode 0b0000011000011000#16 = .error (.reservedBits 0b000001#6) ∧
  decode 0b1111111111001000#16 = .error (.reservedBits 0b111111#6)

/-- Decoding the encoding of a well-formed operation gives it back, every prefix length 0 to 255 included. -/
def Obligations.DecodeOfEncode : Prop :=
  ∀ i : Instr, i.wellFormed = true → decode (encode i) = .ok i

/-- A word that decodes is the encoding of the operation it decodes to, which is well-formed: no two words share an
operation and no bit is dropped. -/
def Obligations.EncodeOfDecode : Prop :=
  ∀ (cmd : Cmd) (i : Instr), decode cmd = .ok i → i.wellFormed = true ∧ encode i = cmd

/-- 30_encoding.md R43: the words with RSV = 0, the 2^10 lowest, are legal, and every other word is illegal. -/
def Obligations.LegalWordsAreTheLowest1024 : Prop :=
  ∀ cmd : Cmd,
    ((∃ i, decode cmd = .ok i) ↔ cmd.toNat < 2 ^ 10) ∧
    (¬ cmd.toNat < 2 ^ 10 → decode cmd = .error (.reservedBits (cmd.extractLsb' 10 6)))

/-- 30_encoding.md R45: "An instruction assembles to CMD = OP << 8 | p", with the addresses on A and B as written; a
prefix length above 255 has no encoding (00_scope.md R6) and an address too wide for its form is refused. What A and B
hold for mask32 and mask64 is open, so it is an argument; that and the 128-bit limit of .cmd addresses are the model's
choice, notes/assumptions/11.md. -/
def Obligations.AssemblyFormsPresentations : Prop :=
  ∀ (anyA anyB : Port) (p c t w : Nat),
    (p ≤ 255 →
      assemble anyA anyB (.mask32 p) = some ⟨BitVec.ofNat 16 (0 <<< 8 ||| p), anyA, anyB, true⟩ ∧
      assemble anyA anyB (.mask64 p) = some ⟨BitVec.ofNat 16 (1 <<< 8 ||| p), anyA, anyB, true⟩) ∧
    (p ≤ 255 → c < 2 ^ 32 → t < 2 ^ 32 →
      assemble anyA anyB (.match4 p c t) =
        some ⟨BitVec.ofNat 16 (2 <<< 8 ||| p), BitVec.ofNat 128 c, BitVec.ofNat 128 t, true⟩) ∧
    (p ≤ 255 → c < 2 ^ 128 → t < 2 ^ 128 →
      assemble anyA anyB (.match6 p c t) =
        some ⟨BitVec.ofNat 16 (3 <<< 8 ||| p), BitVec.ofNat 128 c, BitVec.ofNat 128 t, true⟩) ∧
    (w < 2 ^ 16 → c < 2 ^ 128 → t < 2 ^ 128 →
      assemble anyA anyB (.cmd w c t) =
        some ⟨BitVec.ofNat 16 w, BitVec.ofNat 128 c, BitVec.ofNat 128 t, true⟩) ∧
    (255 < p →
      assemble anyA anyB (.mask32 p) = none ∧ assemble anyA anyB (.mask64 p) = none ∧
      assemble anyA anyB (.match4 p c t) = none ∧ assemble anyA anyB (.match6 p c t) = none) ∧
    (2 ^ 32 ≤ c ∨ 2 ^ 32 ≤ t → assemble anyA anyB (.match4 p c t) = none) ∧
    (2 ^ 128 ≤ c ∨ 2 ^ 128 ≤ t →
      assemble anyA anyB (.match6 p c t) = none ∧ assemble anyA anyB (.cmd w c t) = none)

/-! ### The step -/

/-- When the presented command decodes to an operation, the step is that operation's meaning on the presented inputs,
with the rest of the host's evaluations left to present. That the queue loses its head is the model's bookkeeping
(notes/assumptions/1.md). -/
def Obligations.StepRunsDecodedOperation : Prop :=
  ∀ (s : State) (e : Presentation) (rest : List Presentation) (i : Instr),
    s.queue = e :: rest → e.held = true → decode e.cmd = .ok i →
    step s = exec i { s with cmd := e.cmd, a := e.a, b := e.b, queue := rest }

/-- A command word placed with `withFetchWord` is what the next step runs, on the operands the host presents next, or on
zeros where it presents nothing. The queue as the place of a command, and the zeros, are the model's choice
(notes/assumptions/10.md), and so is that the queue loses its head (notes/assumptions/1.md). -/
def Obligations.PlacedWordRunsNext : Prop :=
  ∀ (s : State) (w : Nat) (i : Instr),
    w < 2 ^ 16 → decodeTableWord 16 w = some i →
    (s.queue = [] →
      step (s.withFetchWord 16 w) = exec i { s with cmd := BitVec.ofNat 16 w, a := 0#128, b := 0#128 }) ∧
    (∀ e rest, s.queue = e :: rest →
      step (s.withFetchWord 16 w) =
        exec i { s with cmd := BitVec.ofNat 16 w, a := e.a, b := e.b, queue := rest })

/-- With nothing to present, a step changes nothing. The model's choice: notes/assumptions/4.md. -/
def Obligations.NothingPresentedNothingChanges : Prop :=
  ∀ s : State, s.queue = [] → step s = .next s

/-- A step stops exactly when the host did not hold the inputs of the evaluation stable, it then stops with the host
fault, and it never refuses. R85 and R87 ask for the host fault and for an end of every evaluation; three clauses are the
model's: that the host's failure is one Boolean and stops the run (notes/assumptions/6.md), that the block's own faults
are next states and so stop no step (notes/assumptions/5.md, against the gloss of 93_implementation_defined.md), and that
an empty queue does not stop (notes/assumptions/4.md). The queue itself is the model's (notes/assumptions/1.md). -/
def Obligations.StepStopsOnlyOnChangedInputs : Prop :=
  ∀ s : State,
    (step s = .fault .inputsChanged ↔ ∃ e rest, s.queue = e :: rest ∧ e.held = false) ∧
    (∀ r, step s ≠ .refused r) ∧
    (∀ e rest, s.queue = e :: rest → e.held = true → ∃ t, step s = .next t)

/-- 30_encoding.md R47: the step, which decodes and dispatches, answers what the procedure `Eval` gives on the bits of
CMD: the event recorded is its outcome, STATUS its code, RES its result. The queue and the record are the model's
(notes/assumptions/1.md), and so is that a fault is a next state (notes/assumptions/5.md). -/
def Obligations.StepComputesEval : Prop :=
  ∀ (s : State) (e : Presentation) (rest : List Presentation),
    s.queue = e :: rest → e.held = true →
    ∃ t, step s = .next t ∧ t.cmd = e.cmd ∧ t.a = e.a ∧ t.b = e.b ∧ t.queue = rest ∧
      t.trace = s.trace ++ [eval e.cmd e.a e.b] ∧ t.status = statusOf (eval e.cmd e.a e.b) ∧
      ∀ r, eval e.cmd e.a e.b = .ok r → t.res = r

/-- 70_reset_and_hazards.md R82, as an invariant of the step: the outputs are `Eval` of the current inputs. That the
ports keep their values while nothing is presented is the model's choice (notes/assumptions/4.md), the record is the
model's (notes/assumptions/1.md), and so is that a fault is a next state (notes/assumptions/5.md). -/
def Obligations.StepKeepsPortsAgree : Prop :=
  ∀ s t : State, s.PortsAgree → step s = .next t → t.PortsAgree

/-- The invariant holds after power-up, where no evaluation has been made. The empty record is the model's choice,
notes/assumptions/3.md. -/
def Obligations.ResetPortsAgree : Prop := State.reset.PortsAgree

/-- 70_reset_and_hazards.md R82: after power-up nothing was evaluated, and there is no result for a host to read. What
the host will present is not the block's: notes/assumptions/3.md. -/
def Obligations.PowerUpHasNoResult : Prop :=
  State.reset.trace = [] ∧ State.reset.queue = [] ∧ State.reset.readRes = none

/-- 95_test_vectors.md section 3: the end state of any sequence of evaluations is the trace of their outcomes, each of
them `Eval` of its own inputs, in the host's order. Good runs are those that record no fault (60_exceptions.md R70). The
queue and the record are the model's (notes/assumptions/1.md), and so is that a run goes on after a fault
(notes/assumptions/5.md). -/
def Obligations.RunRecordsEveryOutcome : Prop :=
  ∀ s : State, s.HostHolds →
    ∃ t : State, Sys2Proof.core.run s.queue.length s = .next t ∧ t.queue = [] ∧
      t.trace = s.trace ++ s.queue.map (fun e => eval e.cmd e.a e.b) ∧
      (t.good = true ↔ s.good = true ∧ ∀ e ∈ s.queue, ∃ r, eval e.cmd e.a e.b = .ok r)

/-- 70_reset_and_hazards.md R84: the host's order does not change the outcomes, only their order. The queue and the
record are the model's (notes/assumptions/1.md), and so is that a run goes on after a fault (notes/assumptions/5.md). -/
def Obligations.OrderOnlyPermutesOutcomes : Prop :=
  ∀ (s : State) (q : List Presentation), s.HostHolds → s.queue.Perm q →
    ∃ t u : State, Sys2Proof.core.run s.queue.length s = .next t ∧
      Sys2Proof.core.run q.length { s with queue := q } = .next u ∧ t.trace.Perm u.trace

/-- 10_state.md R7, R13 and R18 and 60_exceptions.md R74: whatever came before, and whatever the ports still show of it,
the same inputs give the same outcome and the same STATUS, and the same RES when it is a result. The queue and the record
are the model's (notes/assumptions/1.md), and so is that a fault is a next state (notes/assumptions/5.md). -/
def Obligations.OutputsDependOnlyOnInputs : Prop :=
  ∀ (s s' : State) (e : Presentation) (rest rest' : List Presentation),
    s.queue = e :: rest → s'.queue = e :: rest' → e.held = true →
    ∃ t t' o, step s = .next t ∧ step s' = .next t' ∧
      t.trace = s.trace ++ [o] ∧ t'.trace = s'.trace ++ [o] ∧ t.status = t'.status ∧
      (t.status = 0b00#2 → t.res = t'.res)

/-- 20_memory.md R29: repeating an evaluation with the same inputs gives the same outputs and changes no input. The queue
and the record are the model's (notes/assumptions/1.md), and so is that a fault is a next state, after which the second
step runs (notes/assumptions/5.md). -/
def Obligations.RepeatedEvaluationAgrees : Prop :=
  ∀ (s : State) (e : Presentation) (rest : List Presentation),
    s.queue = e :: e :: rest → e.held = true →
    ∃ t u, step s = .next t ∧ step t = .next u ∧ u.cmd = t.cmd ∧ u.a = t.a ∧ u.b = t.b ∧
      u.status = t.status ∧ (t.status = 0b00#2 → u.res = t.res) ∧
      u.trace.getLast? = t.trace.getLast?

/-- 10_state.md R7 and R18: the step makes one step of the block's own machine, whose state is the unit type and whose
operands are inputs, on the inputs presented: its state and its outcome are the block machine's. The queue and the record
are the model's (notes/assumptions/1.md), and so is that a fault is a next state (notes/assumptions/5.md). -/
def Obligations.StepMakesOneBlockStep : Prop :=
  ∀ (s : State) (e : Presentation) (rest : List Presentation),
    s.queue = e :: rest → e.held = true →
    ∃ t, step s = .next t ∧ t.block = (blockStep s.block e.inputs).1 ∧
      t.trace = s.trace ++ [(blockStep s.block e.inputs).2] ∧
      t.status = statusOf (blockStep s.block e.inputs).2

/-! ### The four operations -/

/-- 40_mask_derivation.md R49, whole: encoding, value, STATUS and faults of MASK32. Neither A nor B occurs in RES.
The queue, the record and the counter are the model's (notes/assumptions/1.md and
2.md), and so is that a fault is a next state (notes/assumptions/5.md). -/
def Obligations.Mask32Evaluation : Prop :=
  ∀ (s : State) (e : Presentation) (rest : List Presentation),
    s.queue = e :: rest → e.held = true → e.cmd.extractLsb' 8 2 = 0b00#2 →
    let p := (e.cmd.extractLsb' 0 8).toNat
    let mask : BitVec 32 := BitVec.ofNat 32 (2 ^ 32 - 2 ^ (32 - p))
    (e.cmd.extractLsb' 10 6 = 0#6 → p ≤ 32 →
      decode e.cmd = .ok (.mask32 p) ∧
      step s = .next { s with
        cmd := e.cmd, a := e.a, b := e.b, queue := rest, status := 0b00#2,
        res := mask.setWidth 128, trace := s.trace ++ [.ok (mask.setWidth 128)] }) ∧
    (e.cmd.extractLsb' 10 6 = 0#6 → 32 < p → ∃ r d,
      step s = .next { s with
        cmd := e.cmd, a := e.a, b := e.b, queue := rest, status := 0b01#2,
        res := r, draws := d, trace := s.trace ++ [.fault .invalidPrefix] }) ∧
    (e.cmd.extractLsb' 10 6 ≠ 0#6 → ∃ r d,
      step s = .next { s with
        cmd := e.cmd, a := e.a, b := e.b, queue := rest, status := 0b10#2,
        res := r, draws := d, trace := s.trace ++ [.fault .illegalCommand] })

/-- 40_mask_derivation.md R50, whole: encoding, value, STATUS and faults of MASK64.
The queue, the record and the counter are the model's (notes/assumptions/1.md and
2.md), and so is that a fault is a next state (notes/assumptions/5.md). -/
def Obligations.Mask64Evaluation : Prop :=
  ∀ (s : State) (e : Presentation) (rest : List Presentation),
    s.queue = e :: rest → e.held = true → e.cmd.extractLsb' 8 2 = 0b01#2 →
    let p := (e.cmd.extractLsb' 0 8).toNat
    let mask : BitVec 64 := BitVec.ofNat 64 (2 ^ 64 - 2 ^ (64 - p))
    (e.cmd.extractLsb' 10 6 = 0#6 → p ≤ 64 →
      decode e.cmd = .ok (.mask64 p) ∧
      step s = .next { s with
        cmd := e.cmd, a := e.a, b := e.b, queue := rest, status := 0b00#2,
        res := mask.setWidth 128, trace := s.trace ++ [.ok (mask.setWidth 128)] }) ∧
    (e.cmd.extractLsb' 10 6 = 0#6 → 64 < p → ∃ r d,
      step s = .next { s with
        cmd := e.cmd, a := e.a, b := e.b, queue := rest, status := 0b01#2,
        res := r, draws := d, trace := s.trace ++ [.fault .invalidPrefix] }) ∧
    (e.cmd.extractLsb' 10 6 ≠ 0#6 → ∃ r d,
      step s = .next { s with
        cmd := e.cmd, a := e.a, b := e.b, queue := rest, status := 0b10#2,
        res := r, draws := d, trace := s.trace ++ [.fault .illegalCommand] })

/-- 41_address_matchers.md R55, whole: encoding, result, STATUS and faults of MATCH4.
The queue, the record and the counter are the model's (notes/assumptions/1.md and
2.md), and so is that a fault is a next state (notes/assumptions/5.md). -/
def Obligations.Match4Evaluation : Prop :=
  ∀ (s : State) (e : Presentation) (rest : List Presentation),
    s.queue = e :: rest → e.held = true → e.cmd.extractLsb' 8 2 = 0b10#2 →
    let p := (e.cmd.extractLsb' 0 8).toNat
    let m : BitVec 32 := BitVec.ofNat 32 (2 ^ 32 - 2 ^ (32 - p))
    let r1 : Port :=
      if m &&& e.a.extractLsb' 0 32 = m &&& e.b.extractLsb' 0 32 then 1#128 else 0#128
    (e.cmd.extractLsb' 10 6 = 0#6 → p ≤ 32 →
      decode e.cmd = .ok (.match4 p) ∧
      step s = .next { s with
        cmd := e.cmd, a := e.a, b := e.b, queue := rest, status := 0b00#2,
        res := r1, trace := s.trace ++ [.ok r1] }) ∧
    (e.cmd.extractLsb' 10 6 = 0#6 → 32 < p → ∃ r d,
      step s = .next { s with
        cmd := e.cmd, a := e.a, b := e.b, queue := rest, status := 0b01#2,
        res := r, draws := d, trace := s.trace ++ [.fault .invalidPrefix] }) ∧
    (e.cmd.extractLsb' 10 6 ≠ 0#6 → ∃ r d,
      step s = .next { s with
        cmd := e.cmd, a := e.a, b := e.b, queue := rest, status := 0b10#2,
        res := r, draws := d, trace := s.trace ++ [.fault .illegalCommand] })

/-- 41_address_matchers.md R56, whole: encoding, result, STATUS and faults of MATCH6. The half-word masks are R51's
`mask64_sat`, which SaturatingMaskIsClampedTopmask and HalfMasksByRange give as numbers.
The queue, the record and the counter are the model's (notes/assumptions/1.md and
2.md), and so is that a fault is a next state (notes/assumptions/5.md). -/
def Obligations.Match6Evaluation : Prop :=
  ∀ (s : State) (e : Presentation) (rest : List Presentation),
    s.queue = e :: rest → e.held = true → e.cmd.extractLsb' 8 2 = 0b11#2 →
    let p := (e.cmd.extractLsb' 0 8).toNat
    let mu := mask64Sat (p : Int)
    let ml := mask64Sat ((p : Int) - 64)
    let r1 : Port :=
      if mu &&& e.a.extractLsb' 64 64 = mu &&& e.b.extractLsb' 64 64 ∧
          ml &&& e.a.extractLsb' 0 64 = ml &&& e.b.extractLsb' 0 64 then 1#128 else 0#128
    (e.cmd.extractLsb' 10 6 = 0#6 → p ≤ 128 →
      decode e.cmd = .ok (.match6 p) ∧
      step s = .next { s with
        cmd := e.cmd, a := e.a, b := e.b, queue := rest, status := 0b00#2,
        res := r1, trace := s.trace ++ [.ok r1] }) ∧
    (e.cmd.extractLsb' 10 6 = 0#6 → 128 < p → ∃ r d,
      step s = .next { s with
        cmd := e.cmd, a := e.a, b := e.b, queue := rest, status := 0b01#2,
        res := r, draws := d, trace := s.trace ++ [.fault .invalidPrefix] }) ∧
    (e.cmd.extractLsb' 10 6 ≠ 0#6 → ∃ r d,
      step s = .next { s with
        cmd := e.cmd, a := e.a, b := e.b, queue := rest, status := 0b10#2,
        res := r, draws := d, trace := s.trace ++ [.fault .illegalCommand] })

/-- MASK32 and MASK64 complete on every state when the prefix length is in their range, with the mask as a number on
RES and nothing else changed but STATUS and the run's record, which is the model's (notes/assumptions/1.md). -/
def Obligations.MaskOperationsComplete : Prop :=
  ∀ (p : Nat) (s : State),
    (p ≤ 32 →
      let r := BitVec.ofNat 128 (2 ^ 32 - 2 ^ (32 - p))
      exec (.mask32 p) s =
        .next { s with status := 0b00#2, res := r, trace := s.trace ++ [.ok r] }) ∧
    (p ≤ 64 →
      let r := BitVec.ofNat 128 (2 ^ 64 - 2 ^ (64 - p))
      exec (.mask64 p) s =
        .next { s with status := 0b00#2, res := r, trace := s.trace ++ [.ok r] })

/-- MATCH4 and MATCH6 complete on every state when the prefix length is in their range, with the match bit on RES:
1 exactly when the first `p` bits of the two addresses agree. The record is the model's (notes/assumptions/1.md). -/
def Obligations.MatchOperationsComplete : Prop :=
  ∀ (p : Nat) (s : State),
    (p ≤ 32 →
      let r : Port := if ∀ k, k < p → s.a.getLsbD (31 - k) = s.b.getLsbD (31 - k) then 1#128 else 0#128
      exec (.match4 p) s =
        .next { s with status := 0b00#2, res := r, trace := s.trace ++ [.ok r] }) ∧
    (p ≤ 128 →
      let r : Port := if ∀ k, k < p → s.a.getLsbD (127 - k) = s.b.getLsbD (127 - k) then 1#128 else 0#128
      exec (.match6 p) s =
        .next { s with status := 0b00#2, res := r, trace := s.trace ++ [.ok r] })

/-- 60_exceptions.md R67, the whole table: each operation raises INVALID_PREFIX exactly above its range, for every
prefix length the port can present, 0 to 255. That a larger number, which no command word carries, is INVALID_PREFIX too
is the model's choice (notes/assumptions/8.md).
The queue, the record and the counter are the model's (notes/assumptions/1.md and
2.md), and so is that a fault is a next state (notes/assumptions/5.md). -/
def Obligations.PrefixRangesOfTheOperations : Prop :=
  ∀ (p : Nat) (s : State) (i : Instr) (bound : Nat),
    (i, bound) ∈ [(Instr.mask32 p, 32), (.mask64 p, 64), (.match4 p, 32), (.match6 p, 128)] →
    (p ≤ bound → ∃ t r, exec i s = .next t ∧ t.status = 0b00#2 ∧ t.trace = s.trace ++ [.ok r]) ∧
    (bound < p → ∃ r, exec i s = .next { s with
      status := 0b01#2, res := r, draws := s.draws + 1,
      trace := s.trace ++ [.fault .invalidPrefix] })

/-- The frame of MASK32, MASK64, MATCH4 and MATCH6, which have one shape. The inputs, every byte of the four operand
buffers and the host's queue stay; the record grows by one event, whose code STATUS is; the free-value counter
advances at a fault only. 20_memory.md R20 and R29, 60_exceptions.md R69 and R73.
The queue, the record and the counter are the model's (notes/assumptions/1.md and
2.md), and so is that a fault is a next state (notes/assumptions/5.md). -/
def Obligations.OperationFrame : Prop :=
  ∀ (i : Instr) (s t : State), exec i s = .next t →
    t.cmd = s.cmd ∧ t.a = s.a ∧ t.b = s.b ∧ t.queue = s.queue ∧
    (∀ j, buffer4 t.a j = buffer4 s.a j ∧ buffer4 t.b j = buffer4 s.b j) ∧
    (∀ j, buffer16 t.a j = buffer16 s.a j ∧ buffer16 t.b j = buffer16 s.b j) ∧
    (∃ o, t.trace = s.trace ++ [o] ∧ t.status = statusOf o) ∧
    (t.status = 0b00#2 → t.draws = s.draws) ∧ (t.status ≠ 0b00#2 → t.draws = s.draws + 1)

/-- 30_encoding.md R40: A and B have no effect on MASK32 and MASK64, nor A[127:32] and B[127:32] on MATCH4. STATUS and
the outcome are the same whatever those bits are, and RES is when STATUS is OK: after a fault it has no defined value
(60_exceptions.md R69 and R70). The record is the model's (notes/assumptions/1.md), and so is that a fault is a next
state (notes/assumptions/5.md). -/
def Obligations.UnreadInputBitsAreIgnored : Prop :=
  ∀ (p : Nat) (s : State) (a b : Port) (i : Instr),
    (i = .mask32 p ∨ i = .mask64 p ∨
      i = .match4 p ∧ a.extractLsb' 0 32 = s.a.extractLsb' 0 32 ∧
        b.extractLsb' 0 32 = s.b.extractLsb' 0 32) →
    ∃ t t' o, exec i s = .next t ∧ exec i { s with a := a, b := b } = .next t' ∧
      t.trace = s.trace ++ [o] ∧ t'.trace = s.trace ++ [o] ∧ t'.status = t.status ∧
      (t.status = 0b00#2 → t'.res = t.res)

/-- 30_encoding.md R41: the bits of RES outside the packed result are 0. -/
def Obligations.ResultBitsAboveAreZero : Prop :=
  ∀ (p : Nat) (s : State) (v : Port),
    (Gives (.mask32 p) s v → v.extractLsb' 32 96 = 0#96) ∧
    (Gives (.mask64 p) s v → v.extractLsb' 64 64 = 0#64) ∧
    (Gives (.match4 p) s v → v.extractLsb' 1 127 = 0#127) ∧
    (Gives (.match6 p) s v → v.extractLsb' 1 127 = 0#127)

/-! ### Faults and STATUS -/

/-- 60_exceptions.md R68: a reserved bit is ILLEGAL_COMMAND whatever OP, PFX, A and B hold, and nothing else is.
The queue, the record and the counter are the model's (notes/assumptions/1.md and
2.md), and so is that a fault is a next state (notes/assumptions/5.md). -/
def Obligations.ReservedBitsRaiseIllegalCommand : Prop :=
  ∀ (s : State) (e : Presentation) (rest : List Presentation),
    s.queue = e :: rest → e.held = true →
    (e.cmd.extractLsb' 10 6 ≠ 0#6 → ∃ r d,
      step s = .next { s with
        cmd := e.cmd, a := e.a, b := e.b, queue := rest, status := 0b10#2,
        res := r, draws := d, trace := s.trace ++ [.fault .illegalCommand] }) ∧
    (e.cmd.extractLsb' 10 6 = 0#6 → ∃ t, step s = .next t ∧ t.status ≠ 0b10#2 ∧
      t.trace ≠ s.trace ++ [.fault .illegalCommand])

/-- 60_exceptions.md R71 and R67: one event per evaluation, reserved bits before the prefix, the prefix before any
result. The queue and the record, through which it speaks, are the model's (notes/assumptions/1.md), and so is that a
fault is a next state (notes/assumptions/5.md). -/
def Obligations.FaultPriority : Prop :=
  ∀ (s : State) (e : Presentation) (rest : List Presentation),
    s.queue = e :: rest → e.held = true →
    let op := e.cmd.extractLsb' 8 2
    let p := (e.cmd.extractLsb' 0 8).toNat
    let bound := if op = 0b01#2 then 64 else if op = 0b11#2 then 128 else 32
    ∃ t o, step s = .next t ∧ t.trace = s.trace ++ [o] ∧
      (e.cmd.extractLsb' 10 6 ≠ 0#6 → o = .fault .illegalCommand) ∧
      (e.cmd.extractLsb' 10 6 = 0#6 → bound < p → o = .fault .invalidPrefix) ∧
      (e.cmd.extractLsb' 10 6 = 0#6 → p ≤ bound → ∃ r, o = .ok r)

/-- 30_encoding.md R42: after an evaluation STATUS is 00, 01 or 10 as its outcome is a result, INVALID_PREFIX or
ILLEGAL_COMMAND, and never 11. The record that gives the outcome is the model's (notes/assumptions/1.md), and so is that
a fault is a next state (notes/assumptions/5.md). -/
def Obligations.StatusCodesTheOutcome : Prop :=
  ∀ s t : State, s.queue ≠ [] → step s = .next t →
    t.status ≠ 0b11#2 ∧
    (t.status = 0b00#2 ↔ t.trace = s.trace ++ [.ok t.res]) ∧
    (t.status = 0b01#2 ↔ t.trace = s.trace ++ [.fault .invalidPrefix]) ∧
    (t.status = 0b10#2 ↔ t.trace = s.trace ++ [.fault .illegalCommand])

/-- 60_exceptions.md R70: after an evaluation a host may read RES exactly when the outcome is a result, and then reads
that result. The queue and the record, which `readRes` reads, are the model's (notes/assumptions/1.md), and so is that a
fault is a next state (notes/assumptions/5.md). -/
def Obligations.ResultReadableExactlyWhenOk : Prop :=
  ∀ (s : State) (e : Presentation) (rest : List Presentation),
    s.queue = e :: rest → e.held = true →
    ∃ t, step s = .next t ∧ ∀ r, t.readRes = some r ↔ eval e.cmd e.a e.b = .ok r

/-! ### The matchers' laws -/

/-- 41_address_matchers.md R59. -/
def Obligations.ZeroPrefixMatchesEverything : Prop :=
  ∀ s : State, Gives (.match4 0) s 1#128 ∧ Gives (.match6 0) s 1#128

/-- 41_address_matchers.md R60, at every valid prefix length. -/
def Obligations.SelfMatch : Prop :=
  ∀ (p : Nat) (s : State),
    (p ≤ 32 → s.a.extractLsb' 0 32 = s.b.extractLsb' 0 32 → Gives (.match4 p) s 1#128) ∧
    (p ≤ 128 → s.a = s.b → Gives (.match6 p) s 1#128)

/-- 41_address_matchers.md R61. -/
def Obligations.FullPrefixIsEquality : Prop :=
  ∀ s : State,
    (Gives (.match4 32) s 1#128 ↔ s.a.extractLsb' 0 32 = s.b.extractLsb' 0 32) ∧
    (Gives (.match6 128) s 1#128 ↔ s.a = s.b)

/-- 41_address_matchers.md R62. -/
def Obligations.ShorterPrefixStillMatches : Prop :=
  ∀ (p p' : Nat) (s : State), p' ≤ p →
    (Gives (.match4 p) s 1#128 → Gives (.match4 p') s 1#128) ∧
    (Gives (.match6 p) s 1#128 → Gives (.match6 p') s 1#128)

/-- 41_address_matchers.md R63. -/
def Obligations.Prefix64IgnoresTheLowerWord : Prop :=
  ∀ s : State, Gives (.match6 64) s 1#128 ↔ s.a.extractLsb' 64 64 = s.b.extractLsb' 64 64

/-- 41_address_matchers.md R64. -/
def Obligations.MatchIsSymmetric : Prop :=
  ∀ (p : Nat) (s : State) (v : Port),
    (Gives (.match4 p) s v ↔ Gives (.match4 p) { s with a := s.b, b := s.a } v) ∧
    (Gives (.match6 p) s v ↔ Gives (.match6 p) { s with a := s.b, b := s.a } v)

/-- 41_address_matchers.md R58: the two half comparisons of MATCH6 are one comparison under the 128-bit mask, which is
the agreement of the first `p` bits; MATCH4 compares A[31 : 32-p] and B[31 : 32-p]. -/
def Obligations.SingleMaskForm : Prop :=
  ∀ (p : Nat) (s : State),
    (∀ h : p < 129,
      (Gives (.match6 p) s 1#128 ↔ topmask 128 ⟨p, h⟩ &&& s.a = topmask 128 ⟨p, h⟩ &&& s.b) ∧
      (Gives (.match6 p) s 1#128 ↔ ∀ k, k < p → s.a.getMsbD k = s.b.getMsbD k)) ∧
    (p ≤ 32 → (Gives (.match4 p) s 1#128 ↔ s.a.extractLsb' (32 - p) p = s.b.extractLsb' (32 - p) p))

/-- 20_memory.md R22: prefix bit k, counted from 1, is bit 7 - ((k-1) mod 8) of byte (k-1) div 8, and a match is the
agreement of the prefix bits 1 to p, on the bytes of the two buffers. -/
def Obligations.PrefixBitsInNetworkOrder : Prop :=
  ∀ (p : Nat) (s : State),
    (p ≤ 32 → (Gives (.match4 p) s 1#128 ↔
      ∀ (k : Nat) (j : Fin 4), 1 ≤ k → k ≤ p → j.val = (k - 1) / 8 →
        (buffer4 s.a j).getLsbD (7 - (k - 1) % 8) = (buffer4 s.b j).getLsbD (7 - (k - 1) % 8))) ∧
    (p ≤ 128 → (Gives (.match6 p) s 1#128 ↔
      ∀ (k : Nat) (j : Fin 16), 1 ≤ k → k ≤ p → j.val = (k - 1) / 8 →
        (buffer16 s.a j).getLsbD (7 - (k - 1) % 8) = (buffer16 s.b j).getLsbD (7 - (k - 1) % 8)))

/-! ### Masks and words -/

/-- 41_address_matchers.md R57: the half-word masks of MATCH6 in each range of `p`. -/
def Obligations.HalfMasksByRange : Prop :=
  ∀ p : Nat,
    (p = 0 → mask64Sat p = 0#64 ∧ mask64Sat ((p : Int) - 64) = 0#64) ∧
    (1 ≤ p → p ≤ 63 →
      mask64Sat p = BitVec.ofNat 64 (2 ^ 64 - 2 ^ (64 - p)) ∧ mask64Sat ((p : Int) - 64) = 0#64) ∧
    (p = 64 → mask64Sat p = 0xFFFFFFFFFFFFFFFF#64 ∧ mask64Sat ((p : Int) - 64) = 0#64) ∧
    (65 ≤ p → p ≤ 127 →
      mask64Sat p = 0xFFFFFFFFFFFFFFFF#64 ∧
      mask64Sat ((p : Int) - 64) = BitVec.ofNat 64 (2 ^ 64 - 2 ^ (64 - (p - 64)))) ∧
    (p = 128 →
      mask64Sat p = 0xFFFFFFFFFFFFFFFF#64 ∧ mask64Sat ((p : Int) - 64) = 0xFFFFFFFFFFFFFFFF#64)

/-- 40_mask_derivation.md R51: `mask64_sat(n) = topmask_64(sat(n, 0, 64))` for every integer. -/
def Obligations.SaturatingMaskIsClampedTopmask : Prop :=
  ∀ (n : Int) (h : (min (max n 0) 64).toNat < 65),
    mask64Sat n = topmask 64 ⟨(min (max n 0) 64).toNat, h⟩

/-- 40_mask_derivation.md R53: the count of set bits, nesting, agreement of the top bits, the 128-bit mask as two
halves, and monotonicity of `mask64_sat`. The first three hold at every width. -/
def Obligations.MaskLaws : Prop :=
  (∀ (W : Nat) (n : Fin (W + 1)),
    ((Finset.range W).filter fun i => (topmask W n).getLsbD i = true).card = n.val) ∧
  (∀ (W : Nat) (m n : Fin (W + 1)), m ≤ n → topmask W m &&& topmask W n = topmask W m) ∧
  (∀ (W : Nat) (n : Fin (W + 1)) (x y : BitVec W),
    topmask W n &&& x = topmask W n &&& y ↔
      x.extractLsb' (W - n.val) n.val = y.extractLsb' (W - n.val) n.val) ∧
  (∀ (p : Nat) (h : p < 129),
    (topmask 128 ⟨p, h⟩).toNat =
      (mask64Sat p).toNat * 2 ^ 64 + (mask64Sat ((p : Int) - 64)).toNat) ∧
  (∀ m n : Int, m ≤ n → mask64Sat m &&& mask64Sat n = mask64Sat m)

/-- 40_mask_derivation.md R48: where the reference's shift formula is defined it gives the mask, the top `n` bits are
the set ones, and the prefix length 0, where it is not defined, gives 0. -/
def Obligations.MaskIsTheShiftFormula : Prop :=
  (∀ (n : Nat) (h : n < 33), 1 ≤ n → topmask 32 ⟨n, h⟩ = ~~~((1#32 <<< (32 - n)) - 1#32)) ∧
  (∀ (n : Nat) (h : n < 65), 1 ≤ n → topmask 64 ⟨n, h⟩ = ~~~((1#64 <<< (64 - n)) - 1#64)) ∧
  (∀ (W : Nat) (n : Fin (W + 1)) (i : Nat),
    (topmask W n).getLsbD i = true ↔ W - n.val ≤ i ∧ i < W) ∧
  (∀ W : Nat, topmask W 0 = 0#W)

/-- 20_memory.md R24: a word read is the sum of its bytes, the first with the greatest weight. -/
def Obligations.WordReadIsBigEndianSum : Prop :=
  ∀ (len : Nat) (x : Buffer len) (k n : Nat) (h : k + n ≤ len),
    (memRead x k n h).toNat =
      ∑ j ∈ Finset.range n,
        (if hj : k + j < len then (x ⟨k + j, hj⟩).toNat else 0) * 2 ^ (8 * (n - 1 - j))

/-- 20_memory.md R26: comparing words loaded in the opposite byte order under the byte-swapped mask gives the same
boolean, at every width. -/
def Obligations.HostByteOrderIsInvisible : Prop :=
  ∀ (n : Nat) (x y : Buffer n) (m : BitVec (8 * n)) (h : 0 + n ≤ n),
    let native := fun z : Buffer n => memRead (fun i => z i.rev) 0 n h
    let swapped := memRead (fun i : Fin n => m.extractLsb' (8 * i.val) 8) 0 n h
    maskedEq swapped (native x) (native y) = maskedEq m (memRead x 0 n h) (memRead y 0 n h)
end

