-- ==== Sys2Proof/Laws/Operands.lean ====
section
/-! SUPPORT. The word reads in terms of the ports (20_memory.md R25) and the two outcomes of the prefix check. -/

namespace Sys2Proof.Machine

theorem memRead_toNat {len : Nat} (x : Buffer len) (k n : Nat) (h : k + n ≤ len) :
    (memRead x k n h).toNat = memSum x k n h % 2 ^ (8 * n) := by
  simp [memRead]

@[simp] theorem ipv4Word_buffer4 (x : Port) : ipv4Word (buffer4 x) = x.extractLsb' 0 32 := by
  apply BitVec.eq_of_toNat_eq
  simp only [ipv4Word, memRead, memSum, buffer4, BitVec.toNat_ofNat, BitVec.extractLsb'_toNat,
    Nat.shiftRight_eq_div_pow]
  omega

@[simp] theorem ipv6Upper_buffer16 (x : Port) : ipv6Upper (buffer16 x) = x.extractLsb' 64 64 := by
  apply BitVec.eq_of_toNat_eq
  simp only [ipv6Upper, memRead, memSum, buffer16, BitVec.toNat_ofNat, BitVec.extractLsb'_toNat,
    Nat.shiftRight_eq_div_pow]
  omega

@[simp] theorem ipv6Lower_buffer16 (x : Port) : ipv6Lower (buffer16 x) = x.extractLsb' 0 64 := by
  apply BitVec.eq_of_toNat_eq
  simp only [ipv6Lower, memRead, memSum, buffer16, BitVec.toNat_ofNat, BitVec.extractLsb'_toNat,
    Nat.shiftRight_eq_div_pow]
  omega

theorem checkPrefix_valid {maxP p : Nat} (h : p ≤ maxP) (k : Fin (maxP + 1) → EvalOutcome) :
    checkPrefix maxP p k = k ⟨p, Nat.lt_succ_of_le h⟩ := dif_pos h

theorem checkPrefix_invalid {maxP p : Nat} (h : maxP < p) (k : Fin (maxP + 1) → EvalOutcome) :
    checkPrefix maxP p k = .fault .invalidPrefix := dif_neg (Nat.not_le_of_lt h)

end Sys2Proof.Machine
end

