-- ==== Sys2Proof/Laws/Mask.lean ====
section
/-! SUPPORT. The masks as numbers, the arms of `mask64_sat`, and the outcome of each operation on each side of its
prefix range. -/

namespace Sys2Proof.Machine

theorem topmask_toNat (W : Nat) (n : Fin (W + 1)) :
    (topmask W n).toNat = 2 ^ W - 2 ^ (W - n.val) := by
  have h1 : 0 < 2 ^ (W - n.val) := Nat.two_pow_pos _
  have h2 : 0 < 2 ^ W := Nat.two_pow_pos _
  simp only [topmask, BitVec.toNat_ofNat]
  exact Nat.mod_eq_of_lt (by omega)

@[simp] theorem mask64Sat_nonpos {n : Int} (h : n ≤ 0) : mask64Sat n = 0#64 := if_pos h

@[simp] theorem mask64Sat_full {n : Int} (h : 64 ≤ n) :
    mask64Sat n = BitVec.ofNat 64 (2 ^ 64 - 1) := by
  rw [mask64Sat, if_neg (by omega), dif_pos h]

theorem mask64Sat_inside {n : Nat} (h0 : 0 < n) (h : n < 64) :
    mask64Sat (n : Int) = topmask 64 ⟨n, by omega⟩ := by
  rw [mask64Sat, if_neg (by omega), dif_neg (by omega)]
  rfl

theorem mask32_valid {p : Nat} (h : p ≤ 32) :
    mask32 p = .ok (packMask (topmask 32 ⟨p, Nat.lt_succ_of_le h⟩)) := checkPrefix_valid h _

theorem mask32_invalid {p : Nat} (h : 32 < p) : mask32 p = .fault .invalidPrefix :=
  checkPrefix_invalid h _

theorem mask64_valid {p : Nat} (h : p ≤ 64) :
    mask64 p = .ok (packMask (topmask 64 ⟨p, Nat.lt_succ_of_le h⟩)) := checkPrefix_valid h _

theorem mask64_invalid {p : Nat} (h : 64 < p) : mask64 p = .fault .invalidPrefix :=
  checkPrefix_invalid h _

theorem match4_valid {p : Nat} (h : p ≤ 32) (c t : Buffer 4) :
    match4 p c t = .ok (packMatch
      (maskedEq (topmask 32 ⟨p, Nat.lt_succ_of_le h⟩) (ipv4Word c) (ipv4Word t))) :=
  checkPrefix_valid h _

theorem match4_invalid {p : Nat} (h : 32 < p) (c t : Buffer 4) :
    match4 p c t = .fault .invalidPrefix := checkPrefix_invalid h _

theorem match6_valid {p : Nat} (h : p ≤ 128) (c t : Buffer 16) :
    match6 p c t = .ok (packMatch
      (maskedEq (mask64Sat p) (ipv6Upper c) (ipv6Upper t) &&
        maskedEq (mask64Sat ((p : Int) - 64)) (ipv6Lower c) (ipv6Lower t))) :=
  checkPrefix_valid h _

theorem match6_invalid {p : Nat} (h : 128 < p) (c t : Buffer 16) :
    match6 p c t = .fault .invalidPrefix := checkPrefix_invalid h _

theorem maskedEq_iff {w : Nat} (m c t : BitVec w) :
    maskedEq m c t = true ↔ m &&& c = m &&& t := by simp [maskedEq]

end Sys2Proof.Machine
end

