-- ==== Sys2Proof/Laws/PerInstr.lean ====
section
/-! SUPPORT. The family EncodedFields, one lemma per operation: where the encoder puts RSV, OP and PFX
(30_encoding.md R35). -/

namespace Sys2Proof.Laws

/-- A field of three words put side by side: the bits of the whole at that place. -/
theorem fields_append (o : BitVec 2) (p : BitVec 8) :
    (0b000000#6 ++ o ++ p).extractLsb' 10 6 = 0#6 ∧
      (0b000000#6 ++ o ++ p).extractLsb' 8 2 = o ∧ (0b000000#6 ++ o ++ p).extractLsb' 0 8 = p := by
  refine ⟨?_, ?_, ?_⟩ <;> apply BitVec.eq_of_getLsbD_eq <;> intro i hi
  · have h1 : ¬ 10 + i < 8 := by omega
    have h2 : ¬ 10 + i - 8 < 2 := by omega
    simp only [BitVec.getLsbD_extractLsb', BitVec.getLsbD_append, h1, h2, if_false, BitVec.getLsbD_zero,
      Bool.and_false]
  · have h1 : ¬ 8 + i < 8 := by omega
    have h2 : 8 + i - 8 = i := by omega
    simp only [BitVec.getLsbD_extractLsb', BitVec.getLsbD_append, h1, h2, hi, if_true, if_false,
      decide_true, Bool.true_and]
  · simp only [BitVec.getLsbD_extractLsb', BitVec.getLsbD_append, Nat.zero_add, hi, if_true,
      decide_true, Bool.true_and]

theorem rsvField_append (o : BitVec 2) (p : BitVec 8) : rsvField (0b000000#6 ++ o ++ p) = 0#6 :=
  (fields_append o p).1

theorem opField_append (o : BitVec 2) (p : BitVec 8) : opField (0b000000#6 ++ o ++ p) = o :=
  (fields_append o p).2.1

theorem pfxField_append (o : BitVec 2) (p : BitVec 8) : pfxField (0b000000#6 ++ o ++ p) = p :=
  (fields_append o p).2.2

/-- The command word of a well-formed operation has the operation's OP and prefix length in its fields. -/
def EncodedFields.Statement (i : Instr) : Prop :=
  i.wellFormed = true →
    rsvField (encode i) = 0#6 ∧ opField (encode i) = i.opcode ∧
      (pfxField (encode i)).toNat = i.prefixLength

theorem encoded_fields (i : Instr) : EncodedFields.Statement i := fun h => by
  have hp : i.prefixLength < 2 ^ 8 := of_decide_eq_true h
  refine ⟨rsvField_append _ _, opField_append _ _, ?_⟩
  rw [encode, pfxField_append, BitVec.toNat_ofNat, Nat.mod_eq_of_lt hp]

theorem EncodedFields.mask32 (p : Nat) : EncodedFields.Statement (.mask32 p) := encoded_fields _
theorem EncodedFields.mask64 (p : Nat) : EncodedFields.Statement (.mask64 p) := encoded_fields _
theorem EncodedFields.match4 (p : Nat) : EncodedFields.Statement (.match4 p) := encoded_fields _
theorem EncodedFields.match6 (p : Nat) : EncodedFields.Statement (.match6 p) := encoded_fields _

end Sys2Proof.Laws
end

