-- ==== Sys2Proof/Laws/State.lean ====
section
/-! SUPPORT. What each shared operation on the state writes and what it leaves, one lemma per field. -/

namespace Sys2Proof.Machine

variable (s : State) (e : Presentation) (q : List Presentation) (r : Port) (k : FaultKind)

@[simp] theorem present_block : (s.present e q).block = s.block := rfl
@[simp] theorem present_inputs : (s.present e q).inputs = e.inputs := rfl
@[simp] theorem present_cmd : (s.present e q).cmd = e.cmd := rfl
@[simp] theorem present_a : (s.present e q).a = e.a := rfl
@[simp] theorem present_b : (s.present e q).b = e.b := rfl
@[simp] theorem present_status : (s.present e q).status = s.status := rfl
@[simp] theorem present_res : (s.present e q).res = s.res := rfl
@[simp] theorem present_queue : (s.present e q).queue = q := rfl
@[simp] theorem present_trace : (s.present e q).trace = s.trace := rfl
@[simp] theorem present_draws : (s.present e q).draws = s.draws := rfl

@[simp] theorem complete_block : (s.complete r).block = s.block := rfl
@[simp] theorem complete_cmd : (s.complete r).cmd = s.cmd := rfl
@[simp] theorem complete_a : (s.complete r).a = s.a := rfl
@[simp] theorem complete_b : (s.complete r).b = s.b := rfl
@[simp] theorem complete_status : (s.complete r).status = 0b00#2 := rfl
@[simp] theorem complete_res : (s.complete r).res = r := rfl
@[simp] theorem complete_queue : (s.complete r).queue = s.queue := rfl
@[simp] theorem complete_trace : (s.complete r).trace = s.trace ++ [.ok r] := rfl
@[simp] theorem complete_draws : (s.complete r).draws = s.draws := rfl

@[simp] theorem raise_block : (s.raise k).block = s.block := rfl
@[simp] theorem raise_cmd : (s.raise k).cmd = s.cmd := rfl
@[simp] theorem raise_a : (s.raise k).a = s.a := rfl
@[simp] theorem raise_b : (s.raise k).b = s.b := rfl
@[simp] theorem raise_status : (s.raise k).status = statusOf (.fault k) := rfl
@[simp] theorem raise_queue : (s.raise k).queue = s.queue := rfl
@[simp] theorem raise_trace : (s.raise k).trace = s.trace ++ [.fault k] := rfl
@[simp] theorem raise_draws : (s.raise k).draws = s.draws + 1 := rfl

@[simp] theorem drive_ok : s.drive (.ok r) = s.complete r := rfl
@[simp] theorem drive_fault : s.drive (.fault k) = s.raise k := rfl

variable (o : EvalOutcome)

@[simp] theorem drive_block : (s.drive o).block = s.block := by cases o <;> rfl
@[simp] theorem drive_cmd : (s.drive o).cmd = s.cmd := by cases o <;> rfl
@[simp] theorem drive_a : (s.drive o).a = s.a := by cases o <;> rfl
@[simp] theorem drive_b : (s.drive o).b = s.b := by cases o <;> rfl
@[simp] theorem drive_queue : (s.drive o).queue = s.queue := by cases o <;> rfl
@[simp] theorem drive_status : (s.drive o).status = statusOf o := by cases o <;> rfl
@[simp] theorem drive_trace : (s.drive o).trace = s.trace ++ [o] := by cases o <;> rfl

/-- Making an operation drives the outcome it has on the inputs of this evaluation. -/
theorem react_eq (op : Inputs → EvalOutcome) : s.react op = .next (s.drive (op s.inputs)) := rfl

@[simp] theorem withCommand_nil (w : Cmd) : withCommand w [] = [⟨w, 0#128, 0#128, true⟩] := rfl
@[simp] theorem withCommand_cons (w : Cmd) :
    withCommand w (e :: q) = ⟨w, e.a, e.b, true⟩ :: q := rfl

/-- Everything driving an outcome can do, with the value RES shows on a fault left open. -/
theorem drive_cases :
    (∃ r, o = .ok r ∧
      s.drive o = { s with status := 0b00#2, res := r, trace := s.trace ++ [.ok r] }) ∨
    (∃ k r, o = .fault k ∧ s.drive o =
      { s with status := statusOf (.fault k), res := r, draws := s.draws + 1,
               trace := s.trace ++ [.fault k] }) := by
  cases o with
  | ok r => exact .inl ⟨r, rfl, rfl⟩
  | fault k => exact .inr ⟨k, Config.freeRes s.draws, rfl, rfl⟩

end Sys2Proof.Machine
end

