-- ==== Sys2Proof/Laws/Step.lean ====
section
/-! SUPPORT. What the meanings and the step can do, said once. -/

namespace Sys2Proof.Machine

@[simp] theorem exec_mask32 (p : Nat) (s : State) :
    exec (.mask32 p) s = .next (s.drive (mask32 p)) := rfl

@[simp] theorem exec_mask64 (p : Nat) (s : State) :
    exec (.mask64 p) s = .next (s.drive (mask64 p)) := rfl

@[simp] theorem exec_match4 (p : Nat) (s : State) :
    exec (.match4 p) s = .next (s.drive (match4 p (buffer4 s.a) (buffer4 s.b))) := rfl

@[simp] theorem exec_match6 (p : Nat) (s : State) :
    exec (.match6 p) s = .next (s.drive (match6 p (buffer16 s.a) (buffer16 s.b))) := rfl

/-- Every meaning drives one outcome, and does nothing else. -/
theorem exec_drives (i : Instr) (s : State) : ∃ o, exec i s = .next (s.drive o) := by
  cases i <;> exact ⟨_, rfl⟩

theorem evaluate_of_ok {s : State} {i : Instr} (h : decode s.cmd = .ok i) :
    evaluate s = exec i s := by simp [evaluate, h]

theorem evaluate_of_error {s : State} {d : DecodeError} (h : decode s.cmd = .error d) :
    evaluate s = .next (s.raise .illegalCommand) := by
  cases d
  simp [evaluate, h]

/-- The evaluation of the ports drives one outcome, and does nothing else. -/
theorem evaluate_drives (s : State) : ∃ o, evaluate s = .next (s.drive o) := by
  cases h : decode s.cmd with
  | ok i => rw [evaluate_of_ok h]; exact exec_drives i s
  | error d => rw [evaluate_of_error h]; exact ⟨.fault .illegalCommand, rfl⟩

theorem step_idle {s : State} (h : s.queue = []) : step s = .next s := by simp [step, h]

theorem step_held {s : State} {e : Presentation} {rest : List Presentation}
    (h : s.queue = e :: rest) (hh : e.held = true) :
    step s = evaluate (s.present e rest) := by simp [step, h, hh]

theorem step_changed {s : State} {e : Presentation} {rest : List Presentation}
    (h : s.queue = e :: rest) (hh : e.held = false) :
    step s = .fault .inputsChanged := by simp [step, h, hh]

/-- Everything a step that answers a next state can have done. -/
theorem step_next_cases {s t : State} (h : step s = .next t) :
    (s.queue = [] ∧ t = s) ∨
    (∃ e rest, s.queue = e :: rest ∧ e.held = true ∧ evaluate (s.present e rest) = .next t) := by
  rcases hq : s.queue with _ | ⟨e, rest⟩
  · rw [step_idle hq] at h
    exact .inl ⟨rfl, by injection h with h; exact h.symm⟩
  · cases hh : e.held with
    | true => exact .inr ⟨e, rest, rfl, hh, (step_held hq hh).symm.trans h⟩
    | false => rw [step_changed hq hh] at h; cases h

end Sys2Proof.Machine
end

