-- ==== Sys2Proof/Tests/Slice0.lean ====
section
/-! SUPPORT. Tests, whose expected results are the vectors of 95_test_vectors.md or words written out from
30_encoding.md R35 and R36, and witnesses that the hypotheses of each obligation can be met. -/

namespace Sys2Proof.Tests

open Sys2Proof Sys2Proof.Machine

/-! ### Helpers -/

/-- The power-up state with one evaluation to present, its inputs held. -/
def queued (cmd : Cmd) (a b : Port) : State :=
  { State.reset with queue := [⟨cmd, a, b, true⟩] }

/-- STATUS and RES after one step. -/
def outputs (r : Result) : Option (StatusCode × Port) :=
  match r with
  | .next t => some (t.status, t.res)
  | _ => none

/-- STATUS after one step. RES is left out: after a fault it is a free value. -/
def statusAfter (r : Result) : Option StatusCode :=
  match r with
  | .next t => some t.status
  | _ => none

/-! ### Decoding and encoding, from the pattern `000000oopppppppp` -/

theorem test_decode_mask32 : decode 0b0000000000011111#16 = .ok (.mask32 31) := by decide
theorem test_decode_mask64 : decode 0b0000000100100000#16 = .ok (.mask64 32) := by decide
theorem test_decode_match4 : decode 0b0000001000001100#16 = .ok (.match4 12) := by decide
theorem test_decode_match6 : decode 0b0000001111111111#16 = .ok (.match6 255) := by decide
theorem test_decode_rsv_bit10 : decode 0x0618#16 = .error (.reservedBits 0b000001#6) := by decide
theorem test_decode_rsv_bit15 : decode 0x8018#16 = .error (.reservedBits 0b100000#6) := by decide
theorem test_encode_words :
    encode (.mask32 24) = 0x0018#16 ∧ encode (.mask64 64) = 0x0140#16 ∧
    encode (.match4 24) = 0x0218#16 ∧ encode (.match6 127) = 0x037F#16 := by decide
theorem test_table_words :
    decodeTableWord 16 0x0000 = some (.mask32 0) ∧ decodeTableWord 16 0x0100 = some (.mask64 0) ∧
    decodeTableWord 16 0x0200 = some (.match4 0) ∧ decodeTableWord 16 0x0300 = some (.match6 0) ∧
    decodeTableWord 16 0x0400 = none ∧ decodeTableWord 16 0x10000 = none := by decide

/-! ### Well-formedness: the one check, an ill-formed term of each constructor -/

theorem test_wellFormed_refuses_256 :
    (Instr.mask32 256).wellFormed = false ∧ (Instr.mask64 256).wellFormed = false ∧
    (Instr.match4 256).wellFormed = false ∧ (Instr.match6 256).wellFormed = false := by decide
theorem test_wellFormed_accepts_255 :
    (Instr.mask32 255).wellFormed = true ∧ (Instr.match6 255).wellFormed = true := by decide

/-! ### One step of each operation -/

/-- K32-6. -/
theorem test_mask32_31 : outputs (step (queued 0x001F#16 0#128 0#128)) = some (0#2, 0xFFFFFFFE#128) := by
  decide
/-- K32-8. -/
theorem test_mask32_33 : statusAfter (step (queued 0x0021#16 0#128 0#128)) = some 1#2 := by decide
/-- K64-3. -/
theorem test_mask64_32 :
    outputs (step (queued 0x0120#16 0#128 0#128)) = some (0#2, 0xFFFFFFFF00000000#128) := by decide
/-- K64-6. -/
theorem test_mask64_65 : statusAfter (step (queued 0x0141#16 0#128 0#128)) = some 1#2 := by decide
/-- M4-7: junk above the addresses. -/
theorem test_match4_junk :
    outputs (step (queued 0x0218#16 0xDEADBEEFC0A80105#128 0x1234567800000000C0A80100#128)) =
      some (0#2, 1#128) := by decide
/-- M4-6. -/
theorem test_match4_12 :
    outputs (step (queued 0x020C#16 0xAC200001#128 0xAC100000#128)) = some (0#2, 0#128) := by decide
/-- M6-5: the first bit of the lower word counts at p = 65. -/
theorem test_match6_65 :
    outputs (step (queued 0x0341#16 0x20010DB8000000008000000000000000#128
      0x20010DB8000000000000000000000000#128)) = some (0#2, 0#128) := by decide
/-- M6-7: the last bit is ignored at p = 127. -/
theorem test_match6_127 :
    outputs (step (queued 0x037F#16 0x20010DB8000000000000000000000001#128
      0x20010DB8000000000000000000000000#128)) = some (0#2, 1#128) := by decide
/-- X-3: reserved bits go before an out-of-range prefix. -/
theorem test_illegal_first : statusAfter (step (queued 0xFFC8#16 0#128 0#128)) = some 2#2 := by decide
/-- 93_implementation_defined.md section 1: STATUS 11 is refused. -/
theorem test_status_11 : readStatus 0b11#2 = none ∧ readStatus 0b10#2 = some (.fault .illegalCommand) := by
  decide
/-- 95_test_vectors.md P1: an assembled line and its CMD. -/
theorem test_assemble_match4 :
    assemble 0#128 0#128 (.match4 8 0xC0A80105 0x0A000000) =
      some ⟨0x0208#16, 0xC0A80105#128, 0x0A000000#128, true⟩ := by decide

/-! ### Witnesses: the hypotheses of each obligation can be met, at the bounds of each clause -/

/-- Two held evaluations of W1, the second one the same. -/
def repeated : State :=
  { State.reset with queue := [⟨0x0218#16, 0xC0A80105#128, 0xC0A80100#128, true⟩,
      ⟨0x0218#16, 0xC0A80105#128, 0xC0A80100#128, true⟩] }

/-- A state right after W9, with its outputs on the ports. -/
def afterW9 : State :=
  { State.reset with
    cmd := 0x0200#16, a := 0xFFFFFFFF#128, b := 0#128, status := 0#2, res := 1#128,
    trace := [.ok 1#128] }

theorem witness_DecodeOfEncode :
    (Instr.mask32 0).wellFormed = true ∧ (Instr.match6 255).wellFormed = true := by decide
theorem witness_EncodeOfDecode : decode 0x03FF#16 = .ok (.match6 255) := by decide
theorem witness_LegalWordsAreTheLowest1024 :
    (0x03FF#16).toNat < 2 ^ 10 ∧ ¬ (0x0400#16).toNat < 2 ^ 10 := by decide
theorem witness_AssemblyFormsPresentations :
    255 ≤ 255 ∧ 255 < 256 ∧ 0xFFFFFFFF < 2 ^ 32 ∧ 2 ^ 32 ≤ 0x100000000 ∧
    0xFFFFFFFFFFFFFFFFFFFFFFFFFFFFFFFF < 2 ^ 128 ∧ 0xFFFF < 2 ^ 16 := by decide
/-- For the obligations whose hypotheses are a queue with held inputs at its head: StepComputesEval,
ResultReadableExactlyWhenOk, FaultPriority, StepMakesOneBlockStep, the third clause of StepStopsOnlyOnChangedInputs. -/
theorem witness_held_head :
    (queued 0x0218#16 1#128 2#128).queue = [⟨0x0218#16, 1#128, 2#128, true⟩] ∧
    (⟨0x0218#16, 1#128, 2#128, true⟩ : Presentation).held = true := by decide
theorem witness_StepRunsDecodedOperation :
    ∃ e rest, (queued 0x0218#16 1#128 2#128).queue = e :: rest ∧ e.held = true ∧
      decode e.cmd = .ok (.match4 24) := ⟨_, _, rfl, rfl, by decide⟩
theorem witness_PlacedWordRunsNext :
    0x03FF < 2 ^ 16 ∧ decodeTableWord 16 0x03FF = some (.match6 255) ∧ State.reset.queue = [] ∧
    repeated.queue ≠ [] := by decide
theorem witness_NothingPresentedNothingChanges : State.reset.queue = [] := rfl
theorem witness_StepStopsOnlyOnChangedInputs :
    step { State.reset with queue := [⟨0#16, 0#128, 0#128, false⟩] } = .fault .inputsChanged := rfl
theorem witness_StepKeepsPortsAgree : afterW9.PortsAgree ∧ step afterW9 = .next afterW9 := by
  refine ⟨fun o h => ?_, rfl⟩
  obtain rfl : EvalOutcome.ok 1#128 = o := by simpa [afterW9] using h
  exact ⟨by decide, rfl, fun r hr => by injection hr⟩
theorem witness_StepKeepsPortsAgree_evaluating :
    (queued 0x0218#16 1#128 2#128).PortsAgree ∧ ∃ t, step (queued 0x0218#16 1#128 2#128) = .next t :=
  ⟨fun _ h => by simp [queued, State.reset] at h, _, rfl⟩
/-- For RunRecordsEveryOutcome. -/
theorem witness_HostHolds : repeated.HostHolds := by decide
theorem witness_OrderOnlyPermutesOutcomes :
    (State.mk () 0 0 0 0 0 [⟨1, 2, 3, true⟩, ⟨4, 5, 6, true⟩] [] 0).HostHolds ∧
    [(⟨1, 2, 3, true⟩ : Presentation), ⟨4, 5, 6, true⟩].Perm [⟨4, 5, 6, true⟩, ⟨1, 2, 3, true⟩] :=
  ⟨by decide, .swap _ _ _⟩
theorem witness_OutputsDependOnlyOnInputs :
    ∃ e, repeated.queue = e :: [e] ∧ { afterW9 with queue := [e] }.queue = e :: [] ∧ e.held = true :=
  ⟨_, rfl, rfl, rfl⟩
theorem witness_RepeatedEvaluationAgrees : ∃ e, repeated.queue = e :: e :: [] ∧ e.held = true :=
  ⟨_, rfl, rfl⟩
/-- Each clause of the four evaluation statements, of ReservedBitsRaiseIllegalCommand and of FaultPriority: the greatest valid prefix, the first one
above it, and a reserved bit, each as the head of a queue with held inputs. -/
theorem witness_Mask32Evaluation :
    (∃ e rest, (queued 0x0020#16 1#128 2#128).queue = e :: rest ∧ e.held = true ∧
      e.cmd.extractLsb' 8 2 = 0b00#2 ∧ e.cmd.extractLsb' 10 6 = 0#6 ∧ (e.cmd.extractLsb' 0 8).toNat ≤ 32) ∧
    (∃ e rest, (queued 0x0021#16 1#128 2#128).queue = e :: rest ∧ e.held = true ∧
      e.cmd.extractLsb' 8 2 = 0b00#2 ∧ e.cmd.extractLsb' 10 6 = 0#6 ∧ 32 < (e.cmd.extractLsb' 0 8).toNat) ∧
    (∃ e rest, (queued 0xFC21#16 1#128 2#128).queue = e :: rest ∧ e.held = true ∧
      e.cmd.extractLsb' 8 2 = 0b00#2 ∧ e.cmd.extractLsb' 10 6 ≠ 0#6) :=
  ⟨⟨_, _, rfl, rfl, by decide, by decide, by decide⟩, ⟨_, _, rfl, rfl, by decide, by decide, by decide⟩,
    ⟨_, _, rfl, rfl, by decide, by decide⟩⟩
theorem witness_Mask64Evaluation :
    (∃ e rest, (queued 0x0140#16 1#128 2#128).queue = e :: rest ∧ e.held = true ∧
      e.cmd.extractLsb' 8 2 = 0b01#2 ∧ e.cmd.extractLsb' 10 6 = 0#6 ∧ (e.cmd.extractLsb' 0 8).toNat ≤ 64) ∧
    (∃ e rest, (queued 0x0141#16 1#128 2#128).queue = e :: rest ∧ e.held = true ∧
      e.cmd.extractLsb' 8 2 = 0b01#2 ∧ e.cmd.extractLsb' 10 6 = 0#6 ∧ 64 < (e.cmd.extractLsb' 0 8).toNat) ∧
    (∃ e rest, (queued 0x0541#16 1#128 2#128).queue = e :: rest ∧ e.held = true ∧
      e.cmd.extractLsb' 8 2 = 0b01#2 ∧ e.cmd.extractLsb' 10 6 ≠ 0#6) :=
  ⟨⟨_, _, rfl, rfl, by decide, by decide, by decide⟩, ⟨_, _, rfl, rfl, by decide, by decide, by decide⟩,
    ⟨_, _, rfl, rfl, by decide, by decide⟩⟩
theorem witness_Match4Evaluation :
    (∃ e rest, (queued 0x0220#16 1#128 2#128).queue = e :: rest ∧ e.held = true ∧
      e.cmd.extractLsb' 8 2 = 0b10#2 ∧ e.cmd.extractLsb' 10 6 = 0#6 ∧ (e.cmd.extractLsb' 0 8).toNat ≤ 32) ∧
    (∃ e rest, (queued 0x0221#16 1#128 2#128).queue = e :: rest ∧ e.held = true ∧
      e.cmd.extractLsb' 8 2 = 0b10#2 ∧ e.cmd.extractLsb' 10 6 = 0#6 ∧ 32 < (e.cmd.extractLsb' 0 8).toNat) ∧
    (∃ e rest, (queued 0x0618#16 1#128 2#128).queue = e :: rest ∧ e.held = true ∧
      e.cmd.extractLsb' 8 2 = 0b10#2 ∧ e.cmd.extractLsb' 10 6 ≠ 0#6) :=
  ⟨⟨_, _, rfl, rfl, by decide, by decide, by decide⟩, ⟨_, _, rfl, rfl, by decide, by decide, by decide⟩,
    ⟨_, _, rfl, rfl, by decide, by decide⟩⟩
theorem witness_Match6Evaluation :
    (∃ e rest, (queued 0x0380#16 1#128 2#128).queue = e :: rest ∧ e.held = true ∧
      e.cmd.extractLsb' 8 2 = 0b11#2 ∧ e.cmd.extractLsb' 10 6 = 0#6 ∧ (e.cmd.extractLsb' 0 8).toNat ≤ 128) ∧
    (∃ e rest, (queued 0x0381#16 1#128 2#128).queue = e :: rest ∧ e.held = true ∧
      e.cmd.extractLsb' 8 2 = 0b11#2 ∧ e.cmd.extractLsb' 10 6 = 0#6 ∧ 128 < (e.cmd.extractLsb' 0 8).toNat) ∧
    (∃ e rest, (queued 0xFFC8#16 1#128 2#128).queue = e :: rest ∧ e.held = true ∧
      e.cmd.extractLsb' 8 2 = 0b11#2 ∧ e.cmd.extractLsb' 10 6 ≠ 0#6) :=
  ⟨⟨_, _, rfl, rfl, by decide, by decide, by decide⟩, ⟨_, _, rfl, rfl, by decide, by decide, by decide⟩,
    ⟨_, _, rfl, rfl, by decide, by decide⟩⟩
theorem witness_MaskOperationsComplete : 32 ≤ 32 ∧ 64 ≤ 64 := by decide
theorem witness_MatchOperationsComplete : 32 ≤ 32 ∧ 128 ≤ 128 := by decide
theorem witness_PrefixRangesOfTheOperations :
    (Instr.match6 128, 128) ∈
      [(Instr.mask32 128, 32), (.mask64 128, 64), (.match4 128, 32), (.match6 128, 128)] ∧
    (Instr.mask64 65, 64) ∈
      [(Instr.mask32 65, 32), (.mask64 65, 64), (.match4 65, 32), (.match6 65, 128)] ∧
    128 ≤ 128 ∧ 64 < 65 := by decide
theorem witness_OperationFrame :
    (∃ t, exec (.match6 128) afterW9 = .next t ∧ t.status = 0#2) ∧
    (∃ t, exec (.mask32 33) afterW9 = .next t ∧ t.status ≠ 0#2) :=
  ⟨⟨_, rfl, by decide⟩, ⟨_, rfl, by decide⟩⟩
theorem witness_UnreadInputBitsAreIgnored :
    Instr.match4 32 = .match4 32 ∧
    (0xDEADBEEFFFFFFFFF#128).extractLsb' 0 32 = afterW9.a.extractLsb' 0 32 ∧
    (0x100000000#128).extractLsb' 0 32 = afterW9.b.extractLsb' 0 32 := by decide
/-- K32-7, K64-5 and two matches, for ResultBitsAboveAreZero: each operation gives a value. -/
theorem witness_Gives :
    Gives (.mask32 32) afterW9 0xFFFFFFFF#128 ∧ Gives (.mask64 64) afterW9 0xFFFFFFFFFFFFFFFF#128 ∧
    Gives (.match4 32) afterW9 0#128 ∧ Gives (.match6 96) afterW9 1#128 :=
  ⟨⟨_, rfl, by decide, by decide⟩, ⟨_, rfl, by decide, by decide⟩, ⟨_, rfl, by decide, by decide⟩,
    ⟨_, rfl, by decide, by decide⟩⟩
theorem witness_StatusCodesTheOutcome :
    (queued 0x0218#16 1#128 2#128).queue ≠ [] ∧ ∃ t, step (queued 0x0218#16 1#128 2#128) = .next t :=
  ⟨by decide, _, rfl⟩
theorem witness_SelfMatch :
    32 ≤ 32 ∧ 128 ≤ 128 ∧
    ∃ s : State, s.a = s.b ∧ s.a.extractLsb' 0 32 = s.b.extractLsb' 0 32 :=
  ⟨by decide, by decide, State.reset, rfl, rfl⟩
theorem witness_ShorterPrefixStillMatches :
    0 ≤ 96 ∧ Gives (.match6 96) afterW9 1#128 ∧ Gives (.match4 0) afterW9 1#128 :=
  ⟨by decide, ⟨_, rfl, by decide, by decide⟩, ⟨_, rfl, by decide, by decide⟩⟩
theorem witness_SingleMaskForm : 128 < 129 ∧ 32 ≤ 32 := by decide
theorem witness_PrefixBitsInNetworkOrder :
    (1 ≤ 32 ∧ (3 : Fin 4).val = (32 - 1) / 8) ∧ (1 ≤ 128 ∧ (15 : Fin 16).val = (128 - 1) / 8) ∧
    (0 : Fin 4).val = (1 - 1) / 8 := by decide
theorem witness_HalfMasksByRange :
    (1 ≤ 1 ∧ 1 ≤ 63) ∧ (1 ≤ 63 ∧ 63 ≤ 63) ∧ (65 ≤ 65 ∧ 65 ≤ 127) ∧ (65 ≤ 127 ∧ 127 ≤ 127) := by decide
theorem witness_SaturatingMaskIsClampedTopmask :
    (min (max (-64 : Int) 0) 64).toNat < 65 ∧ (min (max (128 : Int) 0) 64).toNat < 65 := by decide
theorem witness_MaskLaws : (0 : Fin 33) ≤ 32 ∧ 128 < 129 ∧ (-64 : Int) ≤ 64 := by decide
theorem witness_MaskIsTheShiftFormula : 1 ≤ 1 ∧ 32 < 33 ∧ 64 < 65 := by decide
theorem witness_WordReadIsBigEndianSum : 8 + 8 ≤ 16 ∧ 0 + 4 ≤ 4 := by decide
theorem witness_HostByteOrderIsInvisible : 0 + 8 ≤ 8 := by decide

end Sys2Proof.Tests
end

/-! ### Assembling a line: the encoder as `OP << 8 | p`, and what `issue` and `asPort` accept (O5) -/

namespace Sys2Proof

theorem Instr.wellFormed_iff (i : Instr) : i.wellFormed = true ↔ i.prefixLength ≤ 255 := by
  simp only [Instr.wellFormed, Config.prefixW, decide_eq_true_eq]
  omega

/-- 30_encoding.md R45 as a number. -/
theorem encode_toNat {i : Instr} (h : i.prefixLength ≤ 255) :
    (encode i).toNat = i.opcode.toNat <<< 8 ||| i.prefixLength := by
  calc (encode i).toNat
    _ = (0b000000#6 ++ i.opcode).toNat <<< 8 ||| (BitVec.ofNat 8 i.prefixLength).toNat :=
      BitVec.toNat_append _ _
    _ = i.opcode.toNat <<< 8 ||| i.prefixLength := by
      rw [BitVec.toNat_append, BitVec.toNat_zero, Nat.zero_shiftLeft, Nat.zero_or, BitVec.toNat_ofNat,
        Nat.mod_eq_of_lt (b := 2 ^ 8) (Nat.lt_succ_of_le h)]

theorem encode_eq_ofNat {i : Instr} (h : i.prefixLength ≤ 255) :
    encode i = BitVec.ofNat 16 (i.opcode.toNat <<< 8 ||| i.prefixLength) := by
  rw [← encode_toNat h, BitVec.ofNat_toNat, BitVec.setWidth_eq]

end Sys2Proof

namespace Sys2Proof.Machine

theorem issue_of_le {i : Instr} (h : i.prefixLength ≤ 255) (a b : Port) :
    issue i a b = some ⟨BitVec.ofNat 16 (i.opcode.toNat <<< 8 ||| i.prefixLength), a, b, true⟩ := by
  rw [issue, if_pos (i.wellFormed_iff.mpr h), encode_eq_ofNat h]

theorem issue_of_gt {i : Instr} (h : 255 < i.prefixLength) (a b : Port) : issue i a b = none :=
  if_neg fun hw => Nat.not_le.mpr h (i.wellFormed_iff.mp hw)

theorem asPort_of_lt {bits n : Nat} (h : n < 2 ^ bits) : asPort bits n = some (BitVec.ofNat 128 n) :=
  if_pos h

theorem asPort_of_ge {bits n : Nat} (h : 2 ^ bits ≤ n) : asPort bits n = none :=
  if_neg (Nat.not_lt.mpr h)

section
variable {bits c t : Nat} {f : Port → Port → Option Presentation}

/-- Every line with two addresses reads them the same way, whatever `f` then presents. -/
theorem bind_asPort_of_lt (hc : c < 2 ^ bits) (ht : t < 2 ^ bits) :
    (do f (← asPort bits c) (← asPort bits t)) = f (BitVec.ofNat 128 c) (BitVec.ofNat 128 t) := by
  rw [asPort_of_lt hc, asPort_of_lt ht]
  rfl

theorem bind_asPort_of_ge (h : 2 ^ bits ≤ c ∨ 2 ^ bits ≤ t) :
    (do f (← asPort bits c) (← asPort bits t)) = none := by
  rcases h with hc | ht
  · rw [asPort_of_ge hc]
    rfl
  · rw [asPort_of_ge ht]
    exact Option.bind_fun_none _

theorem bind_asPort_of_none (h : ∀ a b, f a b = none) :
    (do f (← asPort bits c) (← asPort bits t)) = none := by
  simp [h]

end

end Sys2Proof.Machine

namespace Sys2Proof.Proofs

open Sys2Proof.Machine

/-- Settles O5: a line is an `issue` (or a raw word) behind at most two `asPort`s, and each clause says which of the
three accepts or refuses its number. -/
theorem assemblyFormsPresentations : Obligations.AssemblyFormsPresentations := by
  intro anyA anyB p c t w
  refine ⟨fun hp => ⟨?_, ?_⟩, fun hp hc ht => ?_, fun hp hc ht => ?_, fun hw hc ht => ?_,
    fun hp => ⟨?_, ?_, ?_, ?_⟩, fun h => ?_, fun h => ⟨?_, ?_⟩⟩
  · exact issue_of_le (i := .mask32 p) hp anyA anyB
  · exact issue_of_le (i := .mask64 p) hp anyA anyB
  · exact (bind_asPort_of_lt hc ht).trans (issue_of_le (i := .match4 p) hp _ _)
  · exact (bind_asPort_of_lt hc ht).trans (issue_of_le (i := .match6 p) hp _ _)
  · exact (bind_asPort_of_lt hc ht).trans (if_pos hw)
  · exact issue_of_gt (i := .mask32 p) hp anyA anyB
  · exact issue_of_gt (i := .mask64 p) hp anyA anyB
  · exact bind_asPort_of_none (issue_of_gt (i := .match4 p) hp)
  · exact bind_asPort_of_none (issue_of_gt (i := .match6 p) hp)
  · exact bind_asPort_of_ge h
  · exact bind_asPort_of_ge h
  · exact bind_asPort_of_ge h

end Sys2Proof.Proofs

/-! ### The step as `Eval`: the decoder and the dispatch drive what the procedure of R47 gives (10_state.md) -/

namespace Sys2Proof

theorem decode_of_legal {cmd : Cmd} (h : rsvField cmd = 0#6) :
    decode cmd = .ok (instrOf (opField cmd) (pfxField cmd).toNat) := if_pos h

theorem decode_of_reserved {cmd : Cmd} (h : rsvField cmd ≠ 0#6) :
    decode cmd = .error (.reservedBits (rsvField cmd)) := if_neg h

end Sys2Proof

namespace Sys2Proof.Machine

theorem eval_of_reserved {cmd : Cmd} (h : rsvField cmd ≠ 0#6) (a b : Port) :
    eval cmd a b = .fault .illegalCommand := if_pos h

/-- On a legal command the dispatch on the decoded operation agrees with `Eval`'s own selection by OP. -/
theorem exec_instrOf_fields {s : State} (h : rsvField s.cmd = 0#6) :
    exec (instrOf (opField s.cmd) (pfxField s.cmd).toNat) s =
      .next (s.drive (eval s.cmd s.a s.b)) := by
  rw [rsvField] at h
  rw [eval, if_neg (not_not_intro h), instrOf, opField, pfxField]
  generalize (s.cmd.extractLsb' 8 2).toFin = op
  match op with
  | 0 | 1 | 2 | 3 => rfl

/-- 30_encoding.md R47: evaluating the ports drives `Eval` of them. -/
theorem evaluate_eq_drive_eval (s : State) : evaluate s = .next (s.drive (eval s.cmd s.a s.b)) := by
  by_cases h : rsvField s.cmd = 0#6
  · rw [evaluate_of_ok (decode_of_legal h), exec_instrOf_fields h]
  · rw [evaluate_of_error (decode_of_reserved h), eval_of_reserved h, drive_fault]

/-- What a step with a held presentation next does, as one state. -/
theorem step_eq_drive_eval {s : State} {e : Presentation} {rest : List Presentation}
    (h : s.queue = e :: rest) (hh : e.held = true) :
    step s = .next ((s.present e rest).drive (eval e.cmd e.a e.b)) :=
  (step_held h hh).trans (evaluate_eq_drive_eval _)

theorem EvalOutcome.isOk_iff {o : EvalOutcome} : o.isOk = true ↔ ∃ r, o = .ok r := by
  cases o <;> simp [EvalOutcome.isOk]

theorem statusOf_eq_zero_iff {o : EvalOutcome} : statusOf o = 0b00#2 ↔ ∃ r, o = .ok r := by
  match o with
  | .ok r => simp [statusOf]
  | .fault .invalidPrefix => simp [statusOf]
  | .fault .illegalCommand => simp [statusOf]

theorem drive_res_of_ok {o : EvalOutcome} {r : Port} (s : State) (h : o = .ok r) : (s.drive o).res = r := by
  rw [h, drive_ok, complete_res]

/-- The free-value counter advances exactly at a fault (notes/assumptions/2.md). -/
theorem drive_draws (s : State) (o : EvalOutcome) :
    (s.drive o).draws = if statusOf o = 0b00#2 then s.draws else s.draws + 1 := by
  match o with
  | .ok _ | .fault .invalidPrefix | .fault .illegalCommand => rfl

theorem drive_eval_portsAgree (s : State) : (s.drive (eval s.cmd s.a s.b)).PortsAgree := by
  intro o ho
  rw [drive_trace, List.getLast?_concat, Option.some.injEq] at ho
  rw [drive_cmd, drive_a, drive_b, drive_status, ho]
  exact ⟨rfl, rfl, fun r => drive_res_of_ok s⟩

/-- A run that adds `os` to the record stays good exactly when every one of them is a result. -/
theorem good_iff_of_trace_append {s t : State} {os : List EvalOutcome} (h : t.trace = s.trace ++ os) :
    t.good = true ↔ s.good = true ∧ ∀ o ∈ os, ∃ r, o = .ok r := by
  simp only [State.good, h, List.all_append, Bool.and_eq_true, List.all_eq_true (l := os),
    EvalOutcome.isOk_iff]

/-- Held presentations are all evaluated, in their order, and the queue is used up. -/
theorem run_queue (s : State) (hs : s.HostHolds) :
    ∃ t : State, Sys2Proof.core.run s.queue.length s = .next t ∧ t.queue = [] ∧
      t.trace = s.trace ++ s.queue.map fun e => eval e.cmd e.a e.b := by
  induction hq : s.queue generalizing s with
  | nil => exact ⟨s, run_zero s, hq, (List.append_nil _).symm⟩
  | cons e rest ih =>
    rw [State.HostHolds, hq, List.forall_mem_cons] at hs
    obtain ⟨he, hrest⟩ := hs
    have hqueue : ((s.present e rest).drive (eval e.cmd e.a e.b)).queue = rest := drive_queue _ _
    obtain ⟨t, hrun, htq, htrace⟩ := ih _ (by rwa [State.HostHolds, hqueue]) hqueue
    refine ⟨t, (run_succ_of_next _ (step_eq_drive_eval hq he)).trans hrun, htq, ?_⟩
    rw [htrace, drive_trace, present_trace, List.append_assoc, List.map_cons, List.singleton_append]

end Sys2Proof.Machine

namespace Sys2Proof.Proofs

open Sys2Proof.Machine

/-- Settles O11: an idle step keeps the state, and any other leaves the ports it has just driven with `Eval` of the
inputs on them, whatever they showed before. -/
theorem stepKeepsPortsAgree : Obligations.StepKeepsPortsAgree := by
  intro s t hs ht
  obtain ⟨-, rfl⟩ | ⟨e, rest, -, -, heval⟩ := step_next_cases ht
  · exact hs
  · rw [evaluate_eq_drive_eval] at heval
    cases heval
    exact drive_eval_portsAgree _

/-- Settles O14, by `run_queue`, an induction over the host's queue. -/
theorem runRecordsEveryOutcome : Obligations.RunRecordsEveryOutcome := by
  intro s hs
  obtain ⟨t, hrun, hqueue, htrace⟩ := run_queue s hs
  refine ⟨t, hrun, hqueue, htrace, ?_⟩
  rw [good_iff_of_trace_append htrace, List.forall_mem_map]

/-- Settles O16: both steps drive `Eval` of the same inputs, and a result on RES is the outcome's own. -/
theorem outputsDependOnlyOnInputs : Obligations.OutputsDependOnlyOnInputs := by
  intro s s' e rest rest' h h' hh
  refine ⟨_, _, _, step_eq_drive_eval h hh, step_eq_drive_eval h' hh, drive_trace _ _, drive_trace _ _, ?_,
    fun hok => ?_⟩
  · rw [drive_status, drive_status]
  · rw [drive_status] at hok
    obtain ⟨r, hr⟩ := statusOf_eq_zero_iff.mp hok
    rw [drive_res_of_ok _ hr, drive_res_of_ok _ hr]

/-- Settles O25: every operation drives one outcome and does nothing else. -/
theorem operationFrame : Obligations.OperationFrame := by
  intro i s t h
  obtain ⟨o, ho⟩ := exec_drives i s
  obtain rfl : s.drive o = t := by rw [ho] at h; injection h
  rw [drive_cmd, drive_a, drive_b, drive_queue, drive_status, drive_draws]
  exact ⟨rfl, rfl, rfl, rfl, fun _ => ⟨rfl, rfl⟩, fun _ => ⟨rfl, rfl⟩, ⟨o, drive_trace s o, rfl⟩,
    fun hok => if_pos hok, fun hfault => if_neg hfault⟩

/-- Settles O6: presenting puts the command on the ports, where the decoder reads it. -/
theorem stepRunsDecodedOperation : Obligations.StepRunsDecodedOperation := by
  intro s e rest i h hh hd
  exact (step_held h hh).trans (evaluate_of_ok hd)

/-- Settles O8. -/
theorem nothingPresentedNothingChanges : Obligations.NothingPresentedNothingChanges :=
  fun _ => step_idle

/-- Settles O46: the block machine's outcome is `Eval` of the presented inputs, which the step drives. -/
theorem stepMakesOneBlockStep : Obligations.StepMakesOneBlockStep := by
  intro s e rest h hh
  exact ⟨_, step_eq_drive_eval h hh, drive_block _ _, drive_trace _ _, drive_status _ _⟩

end Sys2Proof.Proofs

/-! ### The word read, byte by byte and bit by bit: its sum, its network bits, and its byte order (20_memory.md) -/

namespace Sys2Proof.Machine

theorem memSum_lt {len : Nat} (x : Buffer len) (k n : Nat) (h : k + n ≤ len) :
    memSum x k n h < 2 ^ (8 * n) := by
  induction n generalizing k with
  | zero => exact Nat.one_pos
  | succ n ih =>
    have hrest := ih (k + 1) (by omega)
    have hbyte : (x ⟨k, by omega⟩).toNat + 1 ≤ 256 := (x ⟨k, by omega⟩).isLt
    calc memSum x k (n + 1) h
      _ < (x ⟨k, by omega⟩).toNat * 2 ^ (8 * n) + 2 ^ (8 * n) := Nat.add_lt_add_left hrest _
      _ = ((x ⟨k, by omega⟩).toNat + 1) * 2 ^ (8 * n) := (Nat.succ_mul _ _).symm
      _ ≤ 256 * 2 ^ (8 * n) := Nat.mul_le_mul_right _ hbyte
      _ = 2 ^ (8 * (n + 1)) := by ring

theorem memRead_toNat_eq_memSum {len : Nat} (x : Buffer len) (k n : Nat) (h : k + n ≤ len) :
    (memRead x k n h).toNat = memSum x k n h := by
  rw [memRead_toNat, Nat.mod_eq_of_lt (memSum_lt x k n h)]

theorem memSum_eq_sum {len : Nat} (x : Buffer len) (k n : Nat) (h : k + n ≤ len) :
    memSum x k n h =
      ∑ j ∈ Finset.range n,
        (if hj : k + j < len then (x ⟨k + j, hj⟩).toNat else 0) * 2 ^ (8 * (n - 1 - j)) := by
  induction n generalizing k with
  | zero => rfl
  | succ n ih =>
    rw [memSum, Finset.sum_range_succ', ih (k + 1), Nat.add_comm]
    congr 1
    · refine Finset.sum_congr rfl fun j _ => ?_
      rw [Nat.add_sub_cancel, Nat.sub_sub, Nat.add_comm 1 j]
      simp only [Nat.add_right_comm k 1 j, Nat.add_assoc]
    · rw [dif_pos (by omega)]
      rfl

/-- Byte `j` of the bytes read stands `n - 1 - j` bytes from the low end of the word. -/
theorem memSum_testBit {len : Nat} (x : Buffer len) (k n : Nat) (h : k + n ≤ len) {j b : Nat}
    (hj : j < n) (hb : b < 8) :
    (memSum x k n h).testBit (8 * (n - 1 - j) + b) = (x ⟨k + j, by omega⟩).getLsbD b := by
  induction n generalizing k j with
  | zero => omega
  | succ n ih =>
    rw [memSum, Nat.mul_comm _ (2 ^ (8 * n)), Nat.testBit_two_pow_mul_add _ (memSum_lt x _ n _)]
    cases j with
    | zero =>
      rw [if_neg (by omega), show 8 * (n + 1 - 1 - 0) + b - 8 * n = b by omega]
      rfl
    | succ j =>
      rw [if_pos (by omega), show n + 1 - 1 - (j + 1) = n - 1 - j by omega,
        ih (k + 1) (by omega) (by omega)]
      simp only [Nat.add_right_comm k 1 j, Nat.add_assoc]

/-- Bit `k` of a buffer in network order, counted from 0: R22's bit `k + 1`. -/
def networkBit {len : Nat} (x : Buffer len) (k : Nat) (h : k < 8 * len) : Bool :=
  (x ⟨k / 8, by omega⟩).getLsbD (7 - k % 8)

/-- A word read keeps network order: its most significant bits come first in the buffer. -/
theorem memRead_getMsbD {len : Nat} (x : Buffer len) (k n : Nat) (h : k + n ≤ len) {i : Nat}
    (hi : i < 8 * n) :
    (memRead x k n h).getMsbD i = networkBit x (8 * k + i) (by omega) := by
  have hplace : 8 * n - 1 - i = 8 * (n - 1 - i / 8) + (7 - i % 8) := by omega
  have hbyte : (8 * k + i) / 8 = k + i / 8 := by omega
  have hbit : (8 * k + i) % 8 = i % 8 := by omega
  rw [BitVec.getMsbD_eq_getLsbD, decide_eq_true hi, Bool.true_and, ← BitVec.testBit_toNat,
    memRead_toNat_eq_memSum, hplace, memSum_testBit x k n h (by omega) (by omega)]
  simp only [networkBit, hbyte, hbit]

/-- The same for a read of the whole buffer. -/
theorem memRead_zero_getMsbD {n : Nat} (x : Buffer n) (h : 0 + n ≤ n) {i : Nat} (hi : i < 8 * n) :
    (memRead x 0 n h).getMsbD i = networkBit x i hi := by
  rw [memRead_getMsbD x 0 n h hi]
  simp only [Nat.mul_zero, Nat.zero_add]

theorem memRead_and {n : Nat} (u x : Buffer n) (h : 0 + n ≤ n) :
    memRead u 0 n h &&& memRead x 0 n h = memRead (fun j => u j &&& x j) 0 n h := by
  refine BitVec.eq_of_getMsbD_eq fun i hi => ?_
  simp only [BitVec.getMsbD_and, memRead_zero_getMsbD _ h hi, networkBit, BitVec.getLsbD_and]

theorem memRead_injective {n : Nat} (h : 0 + n ≤ n) :
    Function.Injective fun x : Buffer n => memRead x 0 n h := by
  refine fun x y hxy => funext fun j => BitVec.eq_of_getLsbD_eq fun b hb => ?_
  have hi : 8 * j.val + (7 - b) < 8 * n := by omega
  have hbyte : (8 * j.val + (7 - b)) / 8 = j.val := by omega
  have hbit : 7 - (8 * j.val + (7 - b)) % 8 = b := by omega
  have hbits := congrArg (·.getMsbD (8 * j.val + (7 - b))) hxy
  simpa only [memRead_zero_getMsbD _ h hi, networkBit, hbyte, hbit] using hbits

/-- Words read from buffers are compared byte by byte, each under its own byte of the mask. -/
theorem maskedEq_memRead_iff {n : Nat} (u x y : Buffer n) (h : 0 + n ≤ n) :
    maskedEq (memRead u 0 n h) (memRead x 0 n h) (memRead y 0 n h) = true ↔
      ∀ j, u j &&& x j = u j &&& y j := by
  rw [maskedEq_iff, memRead_and, memRead_and, (memRead_injective h).eq_iff, funext_iff]

/-- Every word is the read of its own bytes, the lowest one last. -/
theorem memRead_bytes_rev {n : Nat} (m : BitVec (8 * n)) (h : 0 + n ≤ n) :
    memRead (fun i : Fin n => m.extractLsb' (8 * i.rev.val) 8) 0 n h = m := by
  refine BitVec.eq_of_getMsbD_eq fun i hi => ?_
  have hplace : 8 * (n - (i / 8 + 1)) + (7 - i % 8) = 8 * n - 1 - i := by omega
  have hbit : 7 - i % 8 < 8 := by omega
  rw [memRead_zero_getMsbD _ h hi, networkBit, BitVec.getLsbD_extractLsb', Fin.val_rev, hplace,
    BitVec.getMsbD_eq_getLsbD, decide_eq_true hi, decide_eq_true hbit]

/-- The comparison under any mask, byte by byte: byte 0 of the buffers is under the mask's highest byte. -/
theorem maskedEq_iff_bytes {n : Nat} (m : BitVec (8 * n)) (x y : Buffer n) (h : 0 + n ≤ n) :
    maskedEq m (memRead x 0 n h) (memRead y 0 n h) = true ↔
      ∀ j, m.extractLsb' (8 * j.rev.val) 8 &&& x j = m.extractLsb' (8 * j.rev.val) 8 &&& y j := by
  have hbytes := maskedEq_memRead_iff (fun j : Fin n => m.extractLsb' (8 * j.rev.val) 8) x y h
  rwa [memRead_bytes_rev] at hbytes

/-! ### Matches as agreement of the leading bits, in network order (20_memory.md R22) -/

theorem maskedEq_iff_getMsbD {w : Nat} (m c t : BitVec w) :
    maskedEq m c t = true ↔ ∀ i, i < w → m.getMsbD i = true → c.getMsbD i = t.getMsbD i := by
  have hbit (i : Nat) : (m &&& c).getMsbD i = (m &&& t).getMsbD i ↔
      (m.getMsbD i = true → c.getMsbD i = t.getMsbD i) := by
    rw [BitVec.getMsbD_and, BitVec.getMsbD_and]
    cases m.getMsbD i <;> simp
  simp only [maskedEq_iff, ← hbit]
  exact ⟨fun heq i _ => by rw [heq], fun hbits => BitVec.eq_of_getMsbD_eq hbits⟩

/-- 40_mask_derivation.md R48: the mask's set bits are its first `n`. -/
theorem topmask_getMsbD (W : Nat) (n : Fin (W + 1)) (k : Nat) :
    (topmask W n).getMsbD k = decide (k < n.val) := by
  have hn : n.val ≤ W := Nat.le_of_lt_succ n.isLt
  have hpos : 0 < 2 ^ (W - n.val) := Nat.two_pow_pos _
  have hle : 2 ^ (W - n.val) ≤ 2 ^ W := Nat.pow_le_pow_right (by decide) (Nat.sub_le _ _)
  have hpred : 2 ^ (W - n.val) - 1 < 2 ^ W := by omega
  have hbit (i : Nat) : (topmask W n).getLsbD i = (decide (i < W) && !decide (i < W - n.val)) := by
    rw [← BitVec.testBit_toNat, topmask_toNat, ← Nat.sub_add_cancel hpos,
      Nat.testBit_two_pow_sub_succ hpred, Nat.testBit_two_pow_sub_one]
  rw [BitVec.getMsbD_eq_getLsbD, hbit, Bool.eq_iff_iff]
  simp only [Bool.and_eq_true, Bool.not_eq_true', decide_eq_true_eq, decide_eq_false_iff_not]
  omega

theorem maskedEq_topmask_iff {W : Nat} (n : Fin (W + 1)) (c t : BitVec W) :
    maskedEq (topmask W n) c t = true ↔ ∀ k, k < n.val → c.getMsbD k = t.getMsbD k := by
  simp only [maskedEq_iff_getMsbD, topmask_getMsbD, decide_eq_true_eq]
  exact ⟨fun hbits k hk => hbits k (by omega) hk, fun hbits k _ hk => hbits k hk⟩

/-- 40_mask_derivation.md R51, bit by bit and for every integer. -/
theorem mask64Sat_getMsbD (n : Int) {k : Nat} (hk : k < 64) :
    (mask64Sat n).getMsbD k = decide ((k : Int) < n) := by
  rcases le_or_gt n 0 with hnonpos | hpos
  · rw [mask64Sat_nonpos hnonpos, BitVec.getMsbD_zero, decide_eq_false (by omega)]
  rcases le_or_gt 64 n with hfull | hinside
  · have hones : BitVec.ofNat 64 (2 ^ 64 - 1) = topmask 64 64 := rfl
    rw [mask64Sat_full hfull, hones, topmask_getMsbD, decide_eq_true (by omega : (k : Int) < n)]
    exact decide_eq_true hk
  · obtain ⟨m, rfl⟩ := Int.eq_ofNat_of_zero_le hpos.le
    rw [mask64Sat_inside (by omega) (by omega), topmask_getMsbD]
    simp only [Nat.cast_lt]

theorem maskedEq_mask64Sat_iff (n : Int) (c t : Word64) :
    maskedEq (mask64Sat n) c t = true ↔
      ∀ k : Nat, k < 64 → (k : Int) < n → c.getMsbD k = t.getMsbD k := by
  rw [maskedEq_iff_getMsbD]
  refine forall₂_congr fun k hk => ?_
  rw [mask64Sat_getMsbD n hk, decide_eq_true_eq]

theorem packMatch_eq_one_iff {m : Bool} : packMatch m = 1#128 ↔ m = true := by
  cases m <;> decide

/-- An operation gives exactly the results among the outcomes it drives. -/
theorem gives_iff_of_exec {i : Instr} {s : State} {o : EvalOutcome} {v : Port}
    (h : exec i s = .next (s.drive o)) : Gives i s v ↔ o = .ok v := by
  constructor
  · rintro ⟨t, ht, hstatus, rfl⟩
    obtain rfl : s.drive o = t := by rw [h] at ht; injection ht
    rw [drive_status] at hstatus
    obtain ⟨r, hr⟩ := statusOf_eq_zero_iff.mp hstatus
    rw [drive_res_of_ok s hr, hr]
  · rintro rfl
    exact ⟨_, h, rfl, rfl⟩

theorem match4_eq_ok_one_iff {p : Nat} (hp : p ≤ 32) (c t : Buffer 4) :
    match4 p c t = .ok 1#128 ↔
      ∀ k (hk : k < p), networkBit c k (by omega) = networkBit t k (by omega) := by
  have hword (x : Buffer 4) {k : Nat} (hk : k < 32) : (ipv4Word x).getMsbD k = networkBit x k hk :=
    memRead_zero_getMsbD x _ hk
  rw [match4_valid hp, EvalOutcome.ok.injEq, packMatch_eq_one_iff, maskedEq_topmask_iff]
  refine forall₂_congr fun k hk => ?_
  rw [hword c (by omega), hword t (by omega)]

/-- The upper word holds the network bits 0 to 63 and the lower word the bits 64 to 127, so a bit that counts is found
in the one or the other. -/
theorem match6_eq_ok_one_iff {p : Nat} (hp : p ≤ 128) (c t : Buffer 16) :
    match6 p c t = .ok 1#128 ↔
      ∀ k (hk : k < p), networkBit c k (by omega) = networkBit t k (by omega) := by
  have hupper (x : Buffer 16) {k : Nat} (hk : k < 64) :
      (ipv6Upper x).getMsbD k = networkBit x k (by omega) := by
    rw [ipv6Upper, memRead_getMsbD x 0 8 _ hk]
    simp only [Nat.mul_zero, Nat.zero_add]
  have hlower (x : Buffer 16) {k : Nat} (hk : k < 64) :
      (ipv6Lower x).getMsbD k = networkBit x (64 + k) (by omega) := memRead_getMsbD x 8 8 _ hk
  rw [match6_valid hp, EvalOutcome.ok.injEq, packMatch_eq_one_iff, Bool.and_eq_true,
    maskedEq_mask64Sat_iff, maskedEq_mask64Sat_iff]
  constructor
  · rintro ⟨hup, hlow⟩ k hk
    rcases Nat.lt_or_ge k 64 with hk64 | hk64
    · rw [← hupper c hk64, ← hupper t hk64]
      exact hup k hk64 (by omega)
    · obtain ⟨i, rfl⟩ := Nat.exists_eq_add_of_le hk64
      rw [← hlower c (by omega), ← hlower t (by omega)]
      exact hlow i (by omega) (by omega)
  · refine fun hbits => ⟨fun k hk64 hk => ?_, fun k hk64 hk => ?_⟩
    · rw [hupper c hk64, hupper t hk64]
      exact hbits k (by omega)
    · rw [hlower c hk64, hlower t hk64]
      exact hbits (64 + k) (by omega)

/-- R22 names the bits from 1 and the byte of each; `networkBit` names them from 0. -/
theorem forall_networkBit_iff {len p : Nat} (hp : p ≤ 8 * len) (c t : Buffer len) :
    (∀ k (hk : k < p), networkBit c k (by omega) = networkBit t k (by omega)) ↔
      ∀ (k : Nat) (j : Fin len), 1 ≤ k → k ≤ p → j.val = (k - 1) / 8 →
        (c j).getLsbD (7 - (k - 1) % 8) = (t j).getLsbD (7 - (k - 1) % 8) := by
  constructor
  · intro hbits k j h1 hkp hj
    simpa only [networkBit, ← hj] using hbits (k - 1) (by omega)
  · intro hbits k hk
    exact hbits (k + 1) ⟨k / 8, by omega⟩ (by omega) hk rfl

/-! ### The placed command word and repeated evaluations -/

theorem decode_of_decodeTableWord {nbits w : Nat} {i : Instr} (h : decodeTableWord nbits w = some i) :
    decode (BitVec.ofNat 16 w) = .ok i := by
  cases hd : decode (BitVec.ofNat 16 w) with
  | error d => simp [decodeTableWord, hd] at h
  | ok j =>
    obtain ⟨-, rfl⟩ : (nbits ≤ 16 ∧ w < 2 ^ nbits) ∧ j = i := by simpa [decodeTableWord, hd] using h
    rfl

theorem withFetchWord_queue (s : State) {w : Nat} (hw : w < 2 ^ 16) :
    (s.withFetchWord 16 w).queue = withCommand (BitVec.ofNat 16 w) s.queue := by
  rw [State.withFetchWord, Nat.mod_eq_of_lt hw]

/-- A result on RES is the outcome's own, whatever state it is driven on. -/
theorem drive_res_eq_of_status_ok {o : EvalOutcome} (ho : statusOf o = 0b00#2) (s t : State) :
    (s.drive o).res = (t.drive o).res := by
  obtain ⟨r, hr⟩ := statusOf_eq_zero_iff.mp ho
  rw [drive_res_of_ok s hr, drive_res_of_ok t hr]

end Sys2Proof.Machine

namespace Sys2Proof.Proofs

open Sys2Proof.Machine

/-- Settles O17: both steps drive `Eval` of the same inputs, and a result on RES is the outcome's own. -/
theorem repeatedEvaluationAgrees : Obligations.RepeatedEvaluationAgrees := by
  intro s e rest h hh
  have hfirst := step_eq_drive_eval h hh
  have hsecond := step_eq_drive_eval (drive_queue (s.present e (e :: rest)) (eval e.cmd e.a e.b)) hh
  refine ⟨_, _, hfirst, hsecond, ?_, ?_, ?_, ?_, fun hok => ?_, ?_⟩
  · rw [drive_cmd, drive_cmd, present_cmd, present_cmd]
  · rw [drive_a, drive_a, present_a, present_a]
  · rw [drive_b, drive_b, present_b, present_b]
  · rw [drive_status, drive_status]
  · rw [drive_status] at hok
    exact drive_res_eq_of_status_ok hok _ _
  · rw [drive_trace, drive_trace, List.getLast?_concat, List.getLast?_concat]

/-- Settles O39: an operation gives 1 when its matcher does, and a matcher compares the leading network bits. -/
theorem prefixBitsInNetworkOrder : Obligations.PrefixBitsInNetworkOrder := by
  intro p s
  refine ⟨fun hp => ?_, fun hp => ?_⟩
  · rw [gives_iff_of_exec (exec_match4 p s), match4_eq_ok_one_iff hp, forall_networkBit_iff hp]
  · rw [gives_iff_of_exec (exec_match6 p s), match6_eq_ok_one_iff hp, forall_networkBit_iff hp]

/-- Settles O44, by `memSum_eq_sum`, an induction over the bytes read; the sum fits the word. -/
theorem wordReadIsBigEndianSum : Obligations.WordReadIsBigEndianSum := by
  intro len x k n h
  rw [memRead_toNat_eq_memSum, memSum_eq_sum]

/-- Settles O45: both sides compare byte by byte under the same bytes of the mask, in opposite orders. -/
theorem hostByteOrderIsInvisible : Obligations.HostByteOrderIsInvisible := by
  intro n x y m h
  dsimp only
  rw [Bool.eq_iff_iff, maskedEq_memRead_iff, maskedEq_iff_bytes, Fin.rev_surjective.forall]
  simp only [Fin.rev_rev]

/-- Settles O7: the placed word stands on the head of the queue as a held command that decodes to `i`, and the step
runs it. -/
theorem placedWordRunsNext : Obligations.PlacedWordRunsNext := by
  intro s w i hw hword
  have hdecode := decode_of_decodeTableWord hword
  have hqueue := withFetchWord_queue s hw
  refine ⟨fun hnil => ?_, fun e rest hcons => ?_⟩
  · rw [hnil, withCommand_nil] at hqueue
    rw [stepRunsDecodedOperation _ _ _ i hqueue rfl hdecode, ← hnil]
    rfl
  · rw [hcons, withCommand_cons] at hqueue
    exact stepRunsDecodedOperation _ _ _ i hqueue rfl hdecode

end Sys2Proof.Proofs

/-! ### The command word: decoding and encoding are inverse, and exactly the words with RSV = 0 are legal
(30_encoding.md R35 to R38 and R43) -/

namespace Sys2Proof

@[simp] theorem instrOf_opcode_prefixLength (i : Instr) : instrOf i.opcode i.prefixLength = i := by
  cases i <;> rfl

@[simp] theorem prefixLength_instrOf (op : BitVec 2) (p : Nat) : (instrOf op p).prefixLength = p := by
  rw [instrOf]
  split <;> rfl

@[simp] theorem opcode_instrOf (op : BitVec 2) (p : Nat) : (instrOf op p).opcode = op := by
  obtain ⟨op⟩ := op
  match op with
  | 0 | 1 | 2 | 3 => rfl

theorem decode_eq_ok_iff {cmd : Cmd} {i : Instr} :
    decode cmd = .ok i ↔ rsvField cmd = 0#6 ∧ instrOf (opField cmd) (pfxField cmd).toNat = i := by
  by_cases h : rsvField cmd = 0#6
  · rw [decode_of_legal h, Except.ok.injEq, and_iff_right h]
  · simp [decode_of_reserved h, h]

theorem wellFormed_instrOf (op : BitVec 2) (pfx : BitVec 8) : (instrOf op pfx.toNat).wellFormed = true := by
  rw [Instr.wellFormed_iff, prefixLength_instrOf]
  exact Nat.le_of_lt_succ pfx.isLt

theorem encode_instrOf (op : BitVec 2) (pfx : BitVec 8) :
    encode (instrOf op pfx.toNat) = 0b000000#6 ++ op ++ pfx := by
  rw [encode, opcode_instrOf, prefixLength_instrOf, BitVec.ofNat_toNat, BitVec.setWidth_eq]

/-- The three fields of 30_encoding.md R35 are the whole word. -/
theorem append_fields (cmd : Cmd) : rsvField cmd ++ opField cmd ++ pfxField cmd = cmd := by
  have hhigh : rsvField cmd ++ opField cmd = cmd.extractLsb' 8 8 :=
    BitVec.extractLsb'_append_extractLsb'_eq_extractLsb' rfl
  rw [hhigh]
  exact BitVec.extractLsb'_append_extractLsb' (w := 8) (len := 8)

theorem rsvField_eq_zero_iff {cmd : Cmd} : rsvField cmd = 0#6 ↔ cmd.toNat < 2 ^ 10 := by
  have hlt : cmd.toNat < 2 ^ 16 := cmd.isLt
  have hvalue : (rsvField cmd).toNat = cmd.toNat / 2 ^ 10 := by
    rw [rsvField, BitVec.extractLsb'_toNat, Nat.shiftRight_eq_div_pow, Nat.mod_eq_of_lt (by omega)]
  rw [← BitVec.toNat_inj, hvalue, BitVec.toNat_zero]
  omega

end Sys2Proof

namespace Sys2Proof.Proofs

/-- Settles O2: the encoder puts RSV = 0, OP and PFX where the decoder reads them, and OP selects the operation. -/
theorem decodeOfEncode : Obligations.DecodeOfEncode := by
  intro i hi
  obtain ⟨hrsv, hop, hpfx⟩ := Laws.encoded_fields i hi
  rw [decode_of_legal hrsv, hop, hpfx, instrOf_opcode_prefixLength]

/-- Settles O3: a word is its three fields side by side, and a word that decodes has RSV = 0. -/
theorem encodeOfDecode : Obligations.EncodeOfDecode := by
  intro cmd i hdecode
  obtain ⟨hrsv, rfl⟩ := decode_eq_ok_iff.mp hdecode
  refine ⟨wellFormed_instrOf _ _, ?_⟩
  rw [encode_instrOf, ← hrsv, append_fields]

/-- Settles O4: a word decodes when RSV = 0, and RSV holds the bits from 2^10 up. -/
theorem legalWordsAreTheLowest1024 : Obligations.LegalWordsAreTheLowest1024 := by
  intro cmd
  rw [← rsvField_eq_zero_iff]
  refine ⟨⟨?_, fun hrsv => ⟨_, decode_of_legal hrsv⟩⟩, decode_of_reserved⟩
  rintro ⟨i, hdecode⟩
  exact (decode_eq_ok_iff.mp hdecode).left

/-- Settles O1, by running the decoder on the six words. -/
theorem wordsDecodeAsWritten : Obligations.WordsDecodeAsWritten := by
  unfold Obligations.WordsDecodeAsWritten
  decide

end Sys2Proof.Proofs

/-! ### The outcome on STATUS and RES: its codes, the bits of the result, and the input bits that count
(30_encoding.md R38 to R42) -/

namespace Sys2Proof.Machine

theorem statusOf_ne_three (o : EvalOutcome) : statusOf o ≠ 0b11#2 := by
  match o with
  | .ok _ | .fault .invalidPrefix | .fault .illegalCommand => simp [statusOf]

theorem statusOf_eq_one_iff {o : EvalOutcome} : statusOf o = 0b01#2 ↔ o = .fault .invalidPrefix := by
  match o with
  | .ok _ | .fault .invalidPrefix | .fault .illegalCommand => simp [statusOf]

theorem statusOf_eq_two_iff {o : EvalOutcome} : statusOf o = 0b10#2 ↔ o = .fault .illegalCommand := by
  match o with
  | .ok _ | .fault .invalidPrefix | .fault .illegalCommand => simp [statusOf]

/-- STATUS is 00 exactly when RES shows the outcome's own result. -/
theorem statusOf_eq_zero_iff_drive_res (s : State) {o : EvalOutcome} :
    statusOf o = 0b00#2 ↔ o = .ok (s.drive o).res := by
  rw [statusOf_eq_zero_iff]
  constructor
  · rintro ⟨r, rfl⟩
    rfl
  · exact fun ho => ⟨_, ho⟩

/-- The one event an evaluation records is its outcome. -/
theorem drive_trace_eq_iff (s : State) {o o' : EvalOutcome} :
    (s.drive o).trace = s.trace ++ [o'] ↔ o = o' := by
  rw [drive_trace, List.append_cancel_left_eq, List.singleton_inj]

section
variable {maxP p : Nat} {r : Fin (maxP + 1) → Port}

/-- A result of an operation is one it packs for some prefix length of its range. -/
theorem result_of_checkPrefix_eq_ok {v : Port} (h : checkPrefix maxP p (fun n => .ok (r n)) = .ok v) :
    ∃ n, v = r n := by
  rcases le_or_gt p maxP with hp | hp
  · rw [checkPrefix_valid hp, EvalOutcome.ok.injEq] at h
    exact ⟨_, h.symm⟩
  · rw [checkPrefix_invalid hp] at h
    cases h

/-- An operation's only fault is INVALID_PREFIX. -/
theorem checkPrefix_ne_illegalCommand :
    checkPrefix maxP p (fun n => .ok (r n)) ≠ .fault .illegalCommand := by
  rcases le_or_gt p maxP with hp | hp
  · simp [checkPrefix_valid hp]
  · simp [checkPrefix_invalid hp]

end

theorem eval_eq_illegalCommand_iff {cmd : Cmd} {a b : Port} :
    eval cmd a b = .fault .illegalCommand ↔ rsvField cmd ≠ 0#6 := by
  refine ⟨fun heval hrsv => ?_, fun hrsv => eval_of_reserved hrsv a b⟩
  rw [rsvField] at hrsv
  rw [eval, if_neg (not_not_intro hrsv)] at heval
  revert heval
  generalize (cmd.extractLsb' 8 2).toFin = op
  match op with
  | 0 | 1 | 2 | 3 => exact checkPrefix_ne_illegalCommand

theorem packMask_extractLsb'_above {w : Nat} (mask : BitVec w) (len : Nat) :
    (packMask mask).extractLsb' w len = 0#len := by
  refine BitVec.eq_of_getLsbD_eq fun i _ => ?_
  rw [packMask, BitVec.getLsbD_extractLsb', BitVec.getLsbD_setWidth,
    BitVec.getLsbD_of_ge mask _ (Nat.le_add_right w i), Bool.and_false, Bool.and_false,
    BitVec.getLsbD_zero]

theorem packMatch_extractLsb'_above (matched : Bool) : (packMatch matched).extractLsb' 1 127 = 0#127 := by
  cases matched <;> decide

/-- MATCH4's buffers are the ports' low 32 bits and no more (20_memory.md R21). -/
theorem buffer4_eq_of_low_eq {x y : Port} (h : x.extractLsb' 0 32 = y.extractLsb' 0 32) :
    buffer4 x = buffer4 y := by
  rw [← ipv4Word_buffer4, ← ipv4Word_buffer4] at h
  exact memRead_injective _ h

/-- 30_encoding.md R40: new values of the ports that agree on the bits the operation reads give it the same outcome. -/
theorem exec_outcome_of_unread {p : Nat} {s : State} {a b : Port} {i : Instr}
    (h : i = .mask32 p ∨ i = .mask64 p ∨
      i = .match4 p ∧ a.extractLsb' 0 32 = s.a.extractLsb' 0 32 ∧
        b.extractLsb' 0 32 = s.b.extractLsb' 0 32) :
    ∃ o, exec i s = .next (s.drive o) ∧
      exec i { s with a := a, b := b } = .next ({ s with a := a, b := b }.drive o) := by
  obtain rfl | rfl | ⟨rfl, ha, hb⟩ := h
  · exact ⟨_, exec_mask32 p _, exec_mask32 p _⟩
  · exact ⟨_, exec_mask64 p _, exec_mask64 p _⟩
  · refine ⟨_, exec_match4 p _, ?_⟩
    rw [exec_match4, buffer4_eq_of_low_eq ha, buffer4_eq_of_low_eq hb]

end Sys2Proof.Machine

namespace Sys2Proof.Proofs

open Sys2Proof.Machine

/-- Settles O10: the step drives `Eval` of the presented inputs, and driving keeps those inputs and the rest of the
queue. -/
theorem stepComputesEval : Obligations.StepComputesEval := by
  intro s e rest h hh
  exact ⟨_, step_eq_drive_eval h hh, drive_cmd _ _, drive_a _ _, drive_b _ _, drive_queue _ _,
    drive_trace _ _, drive_status _ _, fun r => drive_res_of_ok _⟩

/-- Settles O26: both runs of the operation drive the same outcome. -/
theorem unreadInputBitsAreIgnored : Obligations.UnreadInputBitsAreIgnored := by
  intro p s a b i hi
  obtain ⟨o, hs, hs'⟩ := exec_outcome_of_unread hi
  refine ⟨_, _, o, hs, hs', drive_trace _ _, drive_trace _ _, ?_, fun hok => ?_⟩
  · rw [drive_status, drive_status]
  · rw [drive_status] at hok
    exact drive_res_eq_of_status_ok hok _ _

/-- Settles O27: a result that passed the prefix check is a packed mask of its width or a packed match bit. -/
theorem resultBitsAboveAreZero : Obligations.ResultBitsAboveAreZero := by
  intro p s v
  rw [gives_iff_of_exec (exec_mask32 p s), gives_iff_of_exec (exec_mask64 p s),
    gives_iff_of_exec (exec_match4 p s), gives_iff_of_exec (exec_match6 p s)]
  refine ⟨fun h => ?_, fun h => ?_, fun h => ?_, fun h => ?_⟩
  · obtain ⟨n, rfl⟩ := result_of_checkPrefix_eq_ok h
    exact packMask_extractLsb'_above _ 96
  · obtain ⟨n, rfl⟩ := result_of_checkPrefix_eq_ok h
    exact packMask_extractLsb'_above _ 64
  · obtain ⟨n, rfl⟩ := result_of_checkPrefix_eq_ok h
    exact packMatch_extractLsb'_above _
  · obtain ⟨n, rfl⟩ := result_of_checkPrefix_eq_ok h
    exact packMatch_extractLsb'_above _

/-- Settles O28: `Eval` is ILLEGAL_COMMAND exactly when a reserved bit is set. -/
theorem reservedBitsRaiseIllegalCommand : Obligations.ReservedBitsRaiseIllegalCommand := by
  intro s e rest h hh
  refine ⟨fun hrsv => ?_, fun hrsv => ⟨_, step_eq_drive_eval h hh, ?_, ?_⟩⟩
  · rw [step_eq_drive_eval h hh, eval_of_reserved hrsv]
    exact ⟨_, _, rfl⟩
  · rw [drive_status, Ne, statusOf_eq_two_iff, eval_eq_illegalCommand_iff]
    exact not_not_intro hrsv
  · rw [← present_trace s e rest, Ne, drive_trace_eq_iff, eval_eq_illegalCommand_iff]
    exact not_not_intro hrsv

/-- Settles O30: a step with a presentation drives one outcome, which STATUS codes and the record keeps. -/
theorem statusCodesTheOutcome : Obligations.StatusCodesTheOutcome := by
  intro s t hqueue ht
  obtain ⟨hnil, -⟩ | ⟨e, rest, -, -, heval⟩ := step_next_cases ht
  · exact absurd hnil hqueue
  obtain ⟨o, ho⟩ := evaluate_drives (s.present e rest)
  obtain rfl : (s.present e rest).drive o = t := by rw [ho] at heval; injection heval
  rw [← present_trace s e rest, drive_trace_eq_iff, drive_trace_eq_iff, drive_trace_eq_iff, drive_status]
  exact ⟨statusOf_ne_three o, statusOf_eq_zero_iff_drive_res _, statusOf_eq_one_iff, statusOf_eq_two_iff⟩

end Sys2Proof.Proofs

/-! ### Masks: their bits and their laws, and the steps of MASK32 and MASK64 (40_mask_derivation.md) -/

namespace Sys2Proof

theorem decode_of_fields {cmd : Cmd} {op : BitVec 2} (hrsv : rsvField cmd = 0#6) (hop : opField cmd = op) :
    decode cmd = .ok (instrOf op (pfxField cmd).toNat) := hop ▸ decode_of_legal hrsv

end Sys2Proof

namespace Sys2Proof.Machine

/-- `topmask_getMsbD` by bit numbers counted from the low end. -/
theorem topmask_getLsbD_iff (W : Nat) (n : Fin (W + 1)) (i : Nat) :
    (topmask W n).getLsbD i = true ↔ W - n.val ≤ i ∧ i < W := by
  rw [BitVec.getLsbD_eq_getMsbD, topmask_getMsbD, Bool.and_eq_true, decide_eq_true_eq, decide_eq_true_eq]
  omega

/-- Where the shift amount is less than the width, the complement of the low bits is the negation of their upper
bound, which is the mask's arithmetic definition. -/
theorem topmask_eq_not_shiftLeft_sub_one {W n : Nat} (h : n < W + 1) (hn : 1 ≤ n) :
    topmask W ⟨n, h⟩ = ~~~((1#W <<< (W - n)) - 1#W) := by
  rw [BitVec.not_sub_one_eq_not_add_one, ← BitVec.neg_eq_not_add, ← BitVec.twoPow_eq]
  apply BitVec.eq_of_toNat_eq
  rw [topmask_toNat, BitVec.toNat_neg, BitVec.toNat_twoPow_of_lt (by omega)]
  exact (Nat.mod_eq_of_lt (Nat.sub_lt (Nat.two_pow_pos W) (Nat.two_pow_pos _))).symm

theorem topmask_zero (W : Nat) : topmask W 0 = 0#W := by
  refine BitVec.eq_of_getMsbD_eq fun k _ => ?_
  rw [topmask_getMsbD, BitVec.getMsbD_zero]
  rfl

theorem card_topmask_bits (W : Nat) (n : Fin (W + 1)) :
    ((Finset.range W).filter fun i => (topmask W n).getLsbD i = true).card = n.val := by
  have hbits : ((Finset.range W).filter fun i => (topmask W n).getLsbD i = true) =
      Finset.Ico (W - n.val) W := by
    ext i
    rw [Finset.mem_filter, topmask_getLsbD_iff, Finset.mem_range, Finset.mem_Ico]
    exact and_iff_right_of_imp And.right
  rw [hbits, Nat.card_Ico]
  omega

/-- One mask lies in another when its bits do. -/
theorem and_eq_left_of_getMsbD {w : Nat} {x y : BitVec w}
    (h : ∀ k < w, x.getMsbD k = true → y.getMsbD k = true) : x &&& y = x := by
  refine BitVec.eq_of_getMsbD_eq fun k hk => ?_
  rw [BitVec.getMsbD_and]
  exact Bool.and_eq_left_iff_imp.mpr (h k hk)

theorem topmask_and_topmask {W : Nat} {m n : Fin (W + 1)} (h : m ≤ n) :
    topmask W m &&& topmask W n = topmask W m := by
  refine and_eq_left_of_getMsbD fun k _ hm => ?_
  rw [topmask_getMsbD, decide_eq_true_eq] at hm ⊢
  exact hm.trans_le h

theorem mask64Sat_and_mask64Sat {m n : Int} (h : m ≤ n) : mask64Sat m &&& mask64Sat n = mask64Sat m := by
  refine and_eq_left_of_getMsbD fun k hk hm => ?_
  rw [mask64Sat_getMsbD _ hk, decide_eq_true_eq] at hm ⊢
  exact hm.trans_le h

/-- The top `n` bits of a word, cut out, are its first `n` bits. -/
theorem extractLsb'_top_eq_iff {W n : Nat} (hn : n ≤ W) (x y : BitVec W) :
    x.extractLsb' (W - n) n = y.extractLsb' (W - n) n ↔ ∀ k, k < n → x.getMsbD k = y.getMsbD k := by
  have hbit (z : BitVec W) {k : Nat} (hk : k < n) :
      (z.extractLsb' (W - n) n).getMsbD k = z.getMsbD k := by
    have hplace : W - (W - n + n - k) = k := by omega
    rw [BitVec.getMsbD_extractLsb', decide_eq_true hk, decide_eq_true (by omega), hplace,
      Bool.true_and, Bool.true_and]
  constructor
  · intro heq k hk
    rw [← hbit x hk, heq, hbit y hk]
  · refine fun hbits => BitVec.eq_of_getMsbD_eq fun k hk => ?_
    rw [hbit x hk, hbit y hk]
    exact hbits k hk

theorem topmask_and_eq_iff {W : Nat} (n : Fin (W + 1)) (x y : BitVec W) :
    topmask W n &&& x = topmask W n &&& y ↔
      x.extractLsb' (W - n.val) n.val = y.extractLsb' (W - n.val) n.val := by
  rw [← maskedEq_iff, maskedEq_topmask_iff, extractLsb'_top_eq_iff (Nat.le_of_lt_succ n.isLt)]

/-- 40_mask_derivation.md R53: the upper mask concatenated with the lower mask. -/
theorem topmask_128_eq_append {p : Nat} (h : p < 129) :
    topmask 128 ⟨p, h⟩ = mask64Sat p ++ mask64Sat ((p : Int) - 64) := by
  refine BitVec.eq_of_getMsbD_eq fun k hk => ?_
  rw [topmask_getMsbD, BitVec.getMsbD_append]
  split
  · rw [mask64Sat_getMsbD _ (by omega), decide_eq_decide]
    dsimp only
    omega
  · rw [mask64Sat_getMsbD _ (by omega), decide_eq_decide]
    dsimp only
    omega

theorem topmask_128_toNat {p : Nat} (h : p < 129) :
    (topmask 128 ⟨p, h⟩).toNat =
      (mask64Sat p).toNat * 2 ^ 64 + (mask64Sat ((p : Int) - 64)).toNat := by
  rw [topmask_128_eq_append, BitVec.toNat_append, ← Nat.shiftLeft_add_eq_or_of_lt (BitVec.isLt _),
    Nat.shiftLeft_eq]

/-- RES of a mask operation as a number: zero-extension keeps the value (30_encoding.md R41). -/
theorem packMask_topmask (W : Nat) (n : Fin (W + 1)) :
    packMask (topmask W n) = BitVec.ofNat 128 (2 ^ W - 2 ^ (W - n.val)) := by
  rw [packMask, ← BitVec.ofNat_toNat, topmask_toNat]

section
variable {s : State} {e : Presentation} {rest : List Presentation} {i : Instr}

/-- The next state of a step whose operation has a result. -/
theorem step_of_result {r : Port} (h : s.queue = e :: rest) (hh : e.held = true)
    (hdecode : decode e.cmd = .ok i)
    (hexec : exec i (s.present e rest) = .next ((s.present e rest).drive (.ok r))) :
    step s = .next { s with
      cmd := e.cmd, a := e.a, b := e.b, queue := rest, status := 0b00#2,
      res := r, trace := s.trace ++ [.ok r] } := by
  rw [step_held h hh, evaluate_of_ok (s := s.present e rest) hdecode, hexec]
  rfl

/-- The next state of a step whose operation faults, with the free value of RES and the counter left open. -/
theorem step_of_invalidPrefix (h : s.queue = e :: rest) (hh : e.held = true)
    (hdecode : decode e.cmd = .ok i)
    (hexec : exec i (s.present e rest) = .next ((s.present e rest).drive (.fault .invalidPrefix))) :
    ∃ r d, step s = .next { s with
      cmd := e.cmd, a := e.a, b := e.b, queue := rest, status := 0b01#2,
      res := r, draws := d, trace := s.trace ++ [.fault .invalidPrefix] } := by
  rw [step_held h hh, evaluate_of_ok (s := s.present e rest) hdecode, hexec]
  exact ⟨_, _, rfl⟩

end

end Sys2Proof.Machine

namespace Sys2Proof.Proofs

open Sys2Proof.Machine

/-- Settles O18: with RSV = 0 the word decodes to MASK32, whose prefix check has the two outcomes; a reserved bit is
O28's first clause. -/
theorem mask32Evaluation : Obligations.Mask32Evaluation := by
  intro s e rest h hh hop p mask
  have hdecode (hrsv : rsvField e.cmd = 0#6) : decode e.cmd = .ok (.mask32 p) := decode_of_fields hrsv hop
  refine ⟨fun hrsv hp => ⟨hdecode hrsv, step_of_result h hh (hdecode hrsv) ?_⟩,
    fun hrsv hp => step_of_invalidPrefix h hh (hdecode hrsv) ?_,
    (reservedBitsRaiseIllegalCommand s e rest h hh).left⟩
  · rw [exec_mask32, mask32_valid hp]
    rfl
  · rw [exec_mask32, mask32_invalid hp]

/-- Settles O19, as O18 at the width 64. -/
theorem mask64Evaluation : Obligations.Mask64Evaluation := by
  intro s e rest h hh hop p mask
  have hdecode (hrsv : rsvField e.cmd = 0#6) : decode e.cmd = .ok (.mask64 p) := decode_of_fields hrsv hop
  refine ⟨fun hrsv hp => ⟨hdecode hrsv, step_of_result h hh (hdecode hrsv) ?_⟩,
    fun hrsv hp => step_of_invalidPrefix h hh (hdecode hrsv) ?_,
    (reservedBitsRaiseIllegalCommand s e rest h hh).left⟩
  · rw [exec_mask64, mask64_valid hp]
    rfl
  · rw [exec_mask64, mask64_invalid hp]

/-- Settles O41: both masks have the bits `k < 64` with `k < n`, counted from the high end. -/
theorem saturatingMaskIsClampedTopmask : Obligations.SaturatingMaskIsClampedTopmask := by
  intro n h
  refine BitVec.eq_of_getMsbD_eq fun k hk => ?_
  rw [mask64Sat_getMsbD n hk, topmask_getMsbD, decide_eq_decide]
  dsimp only
  omega

/-- Settles O42, from the bits of the two masks. -/
theorem maskLaws : Obligations.MaskLaws :=
  ⟨card_topmask_bits, fun _ _ _ => topmask_and_topmask, fun _ => topmask_and_eq_iff,
    fun _ => topmask_128_toNat, fun _ _ => mask64Sat_and_mask64Sat⟩

/-- Settles O43: the shift formula is the mask at every width. -/
theorem maskIsTheShiftFormula : Obligations.MaskIsTheShiftFormula :=
  ⟨fun _ => topmask_eq_not_shiftLeft_sub_one, fun _ => topmask_eq_not_shiftLeft_sub_one,
    topmask_getLsbD_iff, topmask_zero⟩

/-- Settles O22: in its range a mask operation completes, with the packed mask as its result. -/
theorem maskOperationsComplete : Obligations.MaskOperationsComplete := by
  intro p s
  refine ⟨fun hp => ?_, fun hp => ?_⟩
  · rw [exec_mask32, mask32_valid hp, packMask_topmask]
    rfl
  · rw [exec_mask64, mask64_valid hp, packMask_topmask]
    rfl

end Sys2Proof.Proofs

/-! ### The matchers: a match is the agreement of the leading address bits, and the steps of MATCH4 and MATCH6
(41_address_matchers.md) -/

namespace Sys2Proof.Machine

theorem networkBit_buffer4 (x : Port) {k : Nat} (hk : k < 32) :
    networkBit (buffer4 x) k hk = (x.extractLsb' 0 32).getMsbD k := by
  rw [← ipv4Word_buffer4]
  exact (memRead_zero_getMsbD (buffer4 x) _ hk).symm

theorem networkBit_buffer16 (x : Port) {k : Nat} (hk : k < 128) :
    networkBit (buffer16 x) k hk = x.getMsbD k := by
  have hplace : 120 - 8 * (k / 8) + (7 - k % 8) = 127 - k := by omega
  have hbit : 7 - k % 8 < 8 := by omega
  rw [networkBit, buffer16, BitVec.getLsbD_extractLsb', hplace, decide_eq_true hbit,
    BitVec.getMsbD_eq_getLsbD, decide_eq_true hk]

theorem getMsbD_extractLsb'_low {w k : Nat} (x : BitVec w) {len : Nat} (hk : k < len) :
    (x.extractLsb' 0 len).getMsbD k = x.getLsbD (len - 1 - k) := by
  rw [BitVec.getMsbD_eq_getLsbD, BitVec.getLsbD_extractLsb', decide_eq_true hk,
    decide_eq_true (by omega), Bool.true_and, Bool.true_and, Nat.zero_add]

/-- An operation that has a result passed its prefix check (60_exceptions.md R67). -/
theorem le_of_checkPrefix_eq_ok {maxP p : Nat} {k : Fin (maxP + 1) → EvalOutcome} {v : Port}
    (h : checkPrefix maxP p k = .ok v) : p ≤ maxP := by
  by_contra hp
  rw [checkPrefix_invalid (Nat.lt_of_not_le hp)] at h
  cases h

/-- 41_address_matchers.md R58 with the range of R67: the form that the matchers' laws are read from. -/
theorem gives_match4_one_iff {p : Nat} {s : State} :
    Gives (.match4 p) s 1#128 ↔
      p ≤ 32 ∧ ∀ k, k < p → (s.a.extractLsb' 0 32).getMsbD k = (s.b.extractLsb' 0 32).getMsbD k := by
  rw [gives_iff_of_exec (exec_match4 p s)]
  refine (and_iff_right_of_imp le_of_checkPrefix_eq_ok).symm.trans (and_congr_right fun hp => ?_)
  refine (match4_eq_ok_one_iff hp _ _).trans (forall₂_congr fun k hk => ?_)
  rw [networkBit_buffer4, networkBit_buffer4]

/-- As `gives_match4_one_iff`, on the whole ports. -/
theorem gives_match6_one_iff {p : Nat} {s : State} :
    Gives (.match6 p) s 1#128 ↔ p ≤ 128 ∧ ∀ k, k < p → s.a.getMsbD k = s.b.getMsbD k := by
  rw [gives_iff_of_exec (exec_match6 p s)]
  refine (and_iff_right_of_imp le_of_checkPrefix_eq_ok).symm.trans (and_congr_right fun hp => ?_)
  refine (match6_eq_ok_one_iff hp _ _).trans (forall₂_congr fun k hk => ?_)
  rw [networkBit_buffer16, networkBit_buffer16]

theorem packMatch_eq_ite {m : Bool} {P : Prop} [Decidable P] (h : packMatch m = 1#128 ↔ P) :
    packMatch m = if P then 1#128 else 0#128 := by
  rw [packMatch_eq_one_iff] at h
  simp only [packMatch, h]

/-- RES of MATCH4 in its range, stated for any form `P` of the match condition: masked words or leading bits. -/
theorem exec_match4_eq_drive_ite {p : Nat} {s : State} {P : Prop} [Decidable P] (hp : p ≤ 32)
    (h : Gives (.match4 p) s 1#128 ↔ P) :
    exec (.match4 p) s = .next (s.drive (.ok (if P then 1#128 else 0#128))) := by
  rw [gives_iff_of_exec (exec_match4 p s), match4_valid hp, EvalOutcome.ok.injEq] at h
  rw [exec_match4, match4_valid hp, packMatch_eq_ite h]

/-- As `exec_match4_eq_drive_ite`, for MATCH6. -/
theorem exec_match6_eq_drive_ite {p : Nat} {s : State} {P : Prop} [Decidable P] (hp : p ≤ 128)
    (h : Gives (.match6 p) s 1#128 ↔ P) :
    exec (.match6 p) s = .next (s.drive (.ok (if P then 1#128 else 0#128))) := by
  rw [gives_iff_of_exec (exec_match6 p s), match6_valid hp, EvalOutcome.ok.injEq] at h
  rw [exec_match6, match6_valid hp, packMatch_eq_ite h]

/-- 41_address_matchers.md R55: MATCH4 compares the words on the ports under the mask. -/
theorem gives_match4_one_iff_masked {p : Nat} (hp : p ≤ 32) (s : State) :
    Gives (.match4 p) s 1#128 ↔
      topmask 32 ⟨p, Nat.lt_succ_of_le hp⟩ &&& s.a.extractLsb' 0 32 =
        topmask 32 ⟨p, Nat.lt_succ_of_le hp⟩ &&& s.b.extractLsb' 0 32 := by
  rw [gives_iff_of_exec (exec_match4 p s), match4_valid hp, EvalOutcome.ok.injEq, packMatch_eq_one_iff,
    maskedEq_iff, ipv4Word_buffer4, ipv4Word_buffer4]

/-- 41_address_matchers.md R56: MATCH6 compares each half of the ports under its own mask. -/
theorem gives_match6_one_iff_masked {p : Nat} (hp : p ≤ 128) (s : State) :
    Gives (.match6 p) s 1#128 ↔
      mask64Sat p &&& s.a.extractLsb' 64 64 = mask64Sat p &&& s.b.extractLsb' 64 64 ∧
        mask64Sat ((p : Int) - 64) &&& s.a.extractLsb' 0 64 =
          mask64Sat ((p : Int) - 64) &&& s.b.extractLsb' 0 64 := by
  rw [gives_iff_of_exec (exec_match6 p s), match6_valid hp, EvalOutcome.ok.injEq, packMatch_eq_one_iff,
    Bool.and_eq_true, maskedEq_iff, maskedEq_iff, ipv6Upper_buffer16, ipv6Upper_buffer16,
    ipv6Lower_buffer16, ipv6Lower_buffer16]

theorem maskedEq_comm {w : Nat} (m c t : BitVec w) : maskedEq m c t = maskedEq m t c := Bool.beq_comm

theorem match4_comm (p : Nat) (c t : Buffer 4) : match4 p c t = match4 p t c := by
  refine congrArg (checkPrefix 32 p) (funext fun n => ?_)
  rw [maskedEq_comm]

theorem match6_comm (p : Nat) (c t : Buffer 16) : match6 p c t = match6 p t c := by
  refine congrArg (checkPrefix 128 p) (funext fun n => ?_)
  dsimp only
  rw [maskedEq_comm, maskedEq_comm (mask64Sat _) (ipv6Lower c)]

end Sys2Proof.Machine

namespace Sys2Proof.Proofs

open Sys2Proof.Machine

/-- Settles O20: with RSV = 0 the word decodes to MATCH4, whose prefix check has the two outcomes; a reserved bit is
O28's first clause. -/
theorem match4Evaluation : Obligations.Match4Evaluation := by
  intro s e rest h hh hop p m r1
  have hdecode (hrsv : rsvField e.cmd = 0#6) : decode e.cmd = .ok (.match4 p) := decode_of_fields hrsv hop
  refine ⟨fun hrsv hp => ⟨hdecode hrsv, step_of_result h hh (hdecode hrsv) ?_⟩,
    fun hrsv hp => step_of_invalidPrefix h hh (hdecode hrsv) ?_,
    (reservedBitsRaiseIllegalCommand s e rest h hh).left⟩
  · exact exec_match4_eq_drive_ite hp (gives_match4_one_iff_masked hp (s.present e rest))
  · rw [exec_match4, match4_invalid hp]

/-- Settles O21, as O20 with one mask for each half. -/
theorem match6Evaluation : Obligations.Match6Evaluation := by
  intro s e rest h hh hop p mu ml r1
  have hdecode (hrsv : rsvField e.cmd = 0#6) : decode e.cmd = .ok (.match6 p) := decode_of_fields hrsv hop
  refine ⟨fun hrsv hp => ⟨hdecode hrsv, step_of_result h hh (hdecode hrsv) ?_⟩,
    fun hrsv hp => step_of_invalidPrefix h hh (hdecode hrsv) ?_,
    (reservedBitsRaiseIllegalCommand s e rest h hh).left⟩
  · exact exec_match6_eq_drive_ite hp (gives_match6_one_iff_masked hp (s.present e rest))
  · rw [exec_match6, match6_invalid hp]

/-- Settles O23: in its range a matcher completes, with the agreement of the leading bits as its match bit. -/
theorem matchOperationsComplete : Obligations.MatchOperationsComplete := by
  intro p s
  refine ⟨fun hp => exec_match4_eq_drive_ite hp ?_, fun hp => exec_match6_eq_drive_ite hp ?_⟩
  · rw [gives_match4_one_iff, and_iff_right hp]
    refine forall₂_congr fun k hk => ?_
    rw [getMsbD_extractLsb'_low _ (by omega), getMsbD_extractLsb'_low _ (by omega)]
  · rw [gives_match6_one_iff, and_iff_right hp]
    refine forall₂_congr fun k hk => ?_
    rw [BitVec.getMsbD_eq_getLsbD, BitVec.getMsbD_eq_getLsbD, decide_eq_true (by omega : k < 128),
      Bool.true_and, Bool.true_and]

/-- Settles O34: the leading bits of the full prefix length are the whole address. -/
theorem fullPrefixIsEquality : Obligations.FullPrefixIsEquality := by
  intro s
  rw [gives_match4_one_iff, gives_match6_one_iff, and_iff_right le_rfl, and_iff_right le_rfl,
    ← extractLsb'_top_eq_iff le_rfl, ← extractLsb'_top_eq_iff le_rfl]
  simp only [Nat.sub_self, BitVec.extractLsb'_eq_self, and_self]

/-- Settles O35: fewer leading bits are among those that agree, and a shorter prefix length stays valid. -/
theorem shorterPrefixStillMatches : Obligations.ShorterPrefixStillMatches := by
  intro p p' s hle
  simp only [gives_match4_one_iff, gives_match6_one_iff]
  exact ⟨fun ⟨hp, hbits⟩ => ⟨hle.trans hp, fun k hk => hbits k (hk.trans_le hle)⟩,
    fun ⟨hp, hbits⟩ => ⟨hle.trans hp, fun k hk => hbits k (hk.trans_le hle)⟩⟩

/-- Settles O36: the leading 64 bits are the upper word. -/
theorem prefix64IgnoresTheLowerWord : Obligations.Prefix64IgnoresTheLowerWord := by
  intro s
  rw [gives_match6_one_iff, and_iff_right (by decide)]
  exact (extractLsb'_top_eq_iff (by decide) s.a s.b).symm

/-- Settles O38: the 128-bit mask keeps the leading `p` bits, and a word's leading bits are its top field. -/
theorem singleMaskForm : Obligations.SingleMaskForm := by
  intro p s
  refine ⟨fun h => ?_, fun hp => ?_⟩
  · rw [gives_match6_one_iff, and_iff_right (Nat.le_of_lt_succ h), ← maskedEq_iff, maskedEq_topmask_iff]
    exact ⟨Iff.rfl, Iff.rfl⟩
  · have hwidth : 32 - p + p ≤ 32 := (Nat.sub_add_cancel hp).le
    rw [gives_match4_one_iff, and_iff_right hp, ← extractLsb'_top_eq_iff hp,
      BitVec.extractLsb'_extractLsb'_of_le hwidth, BitVec.extractLsb'_extractLsb'_of_le hwidth]

/-- Settles O32: no bit has to agree. -/
theorem zeroPrefixMatchesEverything : Obligations.ZeroPrefixMatchesEverything := by
  intro s
  rw [gives_match4_one_iff, gives_match6_one_iff]
  exact ⟨⟨Nat.zero_le _, fun k hk => absurd hk k.not_lt_zero⟩,
    ⟨Nat.zero_le _, fun k hk => absurd hk k.not_lt_zero⟩⟩

/-- Settles O33: the leading bits of equal addresses agree. -/
theorem selfMatch : Obligations.SelfMatch := by
  intro p s
  rw [gives_match4_one_iff, gives_match6_one_iff]
  exact ⟨fun hp heq => ⟨hp, fun _ _ => by rw [heq]⟩, fun hp heq => ⟨hp, fun _ _ => by rw [heq]⟩⟩

/-- Settles O37: swapping the ports swaps the arguments of a symmetric comparison. -/
theorem matchIsSymmetric : Obligations.MatchIsSymmetric := by
  intro p s v
  rw [gives_iff_of_exec (exec_match4 p s), gives_iff_of_exec (exec_match4 p _),
    gives_iff_of_exec (exec_match6 p s), gives_iff_of_exec (exec_match6 p _), match4_comm, match6_comm]
  exact ⟨Iff.rfl, Iff.rfl⟩

/-- Settles O40: in each range either mask saturates at 0 or at all ones, or is the mask of its own length. -/
theorem halfMasksByRange : Obligations.HalfMasksByRange := by
  intro p
  have hlower (hlow : 65 ≤ p) (hhigh : p ≤ 127) :
      mask64Sat ((p : Int) - 64) = topmask 64 ⟨p - 64, by omega⟩ := by
    rw [show (p : Int) - 64 = (p - 64 : Nat) by omega]
    exact mask64Sat_inside (by omega) (by omega)
  exact ⟨fun hp => ⟨mask64Sat_nonpos (by omega), mask64Sat_nonpos (by omega)⟩,
    fun hlow hhigh => ⟨mask64Sat_inside hlow (by omega), mask64Sat_nonpos (by omega)⟩,
    fun hp => ⟨mask64Sat_full (by omega), mask64Sat_nonpos (by omega)⟩,
    fun hlow hhigh => ⟨mask64Sat_full (by omega), hlower hlow hhigh⟩,
    fun hp => ⟨mask64Sat_full (by omega), mask64Sat_full (by omega)⟩⟩

end Sys2Proof.Proofs

/-! ### Faults: the prefix range of each operation, the order of the checks, and what a host can read of RES
(60_exceptions.md) -/

namespace Sys2Proof

/-- The largest valid prefix length of an operation (60_exceptions.md R67). -/
def Instr.maxPrefix : Instr → Nat
  | .mask32 _ => 32
  | .mask64 _ => 64
  | .match4 _ => 32
  | .match6 _ => 128

/-- The range of R67 by the OP value that selects the operation. -/
theorem maxPrefix_instrOf (op : BitVec 2) (p : Nat) :
    (instrOf op p).maxPrefix = if op = 0b01#2 then 64 else if op = 0b11#2 then 128 else 32 := by
  obtain ⟨op⟩ := op
  match op with
  | 0 | 1 | 2 | 3 => rfl

end Sys2Proof

namespace Sys2Proof.Machine

/-- 60_exceptions.md R67: an operation has a result up to the bound of its range, and the one fault INVALID_PREFIX
above it. -/
theorem exec_drives_by_range (i : Instr) (s : State) :
    ∃ o, exec i s = .next (s.drive o) ∧
      (i.prefixLength ≤ i.maxPrefix → ∃ r, o = .ok r) ∧
      (i.maxPrefix < i.prefixLength → o = .fault .invalidPrefix) := by
  cases i with
  | mask32 p => exact ⟨_, exec_mask32 p s, fun hp => ⟨_, mask32_valid hp⟩, mask32_invalid⟩
  | mask64 p => exact ⟨_, exec_mask64 p s, fun hp => ⟨_, mask64_valid hp⟩, mask64_invalid⟩
  | match4 p =>
    exact ⟨_, exec_match4 p s, fun hp => ⟨_, match4_valid hp _ _⟩, fun hp => match4_invalid hp _ _⟩
  | match6 p =>
    exact ⟨_, exec_match6 p s, fun hp => ⟨_, match6_valid hp _ _⟩, fun hp => match6_invalid hp _ _⟩

/-- 60_exceptions.md R70: a fault leaves nothing to read, and a result is read as it is. -/
theorem readRes_drive_eq_some_iff (s : State) {o : EvalOutcome} {r : Port} :
    (s.drive o).readRes = some r ↔ o = .ok r := by
  rw [State.readRes, drive_trace, List.getLast?_concat, drive_status]
  match o with
  | .ok _ | .fault .invalidPrefix | .fault .illegalCommand => simp [statusOf, readStatus]

end Sys2Proof.Machine

namespace Sys2Proof.Proofs

open Sys2Proof.Machine

/-- Settles O24: the table's bound is the operation's own, and the prefix check has its two outcomes. -/
theorem prefixRangesOfTheOperations : Obligations.PrefixRangesOfTheOperations := by
  intro p s i bound hrow
  obtain ⟨rfl, rfl⟩ : i.prefixLength = p ∧ i.maxPrefix = bound := by
    simp only [List.mem_cons, Prod.mk.injEq, List.not_mem_nil, or_false] at hrow
    obtain ⟨rfl, rfl⟩ | ⟨rfl, rfl⟩ | ⟨rfl, rfl⟩ | ⟨rfl, rfl⟩ := hrow <;> exact ⟨rfl, rfl⟩
  obtain ⟨o, hexec, hvalid, hinvalid⟩ := exec_drives_by_range i s
  rw [hexec]
  refine ⟨fun hp => ?_, fun hp => ?_⟩
  · obtain ⟨r, rfl⟩ := hvalid hp
    exact ⟨_, r, rfl, drive_status _ _, drive_trace _ _⟩
  · rw [hinvalid hp]
    exact ⟨_, rfl⟩

/-- Settles O29: a reserved bit stops the decoder, and a legal command runs the operation OP selects, which checks its
prefix before it has a result. -/
theorem faultPriority : Obligations.FaultPriority := by
  intro s e rest h hh op p bound
  by_cases hrsv : rsvField e.cmd = 0#6
  · obtain ⟨o, hexec, hvalid, hinvalid⟩ := exec_drives_by_range (instrOf op p) (s.present e rest)
    rw [maxPrefix_instrOf, prefixLength_instrOf] at hvalid hinvalid
    have hstep := stepRunsDecodedOperation s e rest _ h hh (decode_of_legal hrsv)
    exact ⟨_, o, hstep.trans hexec, drive_trace _ _, fun hset => absurd hrsv hset, fun _ => hinvalid,
      fun _ => hvalid⟩
  · exact ⟨_, _, step_eq_drive_eval h hh, drive_trace _ _, fun _ => eval_of_reserved hrsv _ _,
      fun hclear => absurd hclear hrsv, fun hclear => absurd hclear hrsv⟩

/-- Settles O31: the step drives `Eval` of the presented inputs, and a host reads exactly a driven result. -/
theorem resultReadableExactlyWhenOk : Obligations.ResultReadableExactlyWhenOk := by
  intro s e rest h hh
  exact ⟨_, step_eq_drive_eval h hh, fun _ => readRes_drive_eq_some_iff _⟩

end Sys2Proof.Proofs

/-! ### Reset and the host's order: when a step stops, what power-up leaves on the ports, and a reordered queue
(70_reset_and_hazards.md) -/

namespace Sys2Proof.Machine

/-- Everything a step can answer, by what the host presents next: nothing, held inputs, or inputs not held. -/
theorem step_cases (s : State) :
    (s.queue = [] ∧ step s = .next s) ∨
    (∃ e rest, s.queue = e :: rest ∧ e.held = true ∧
      step s = .next ((s.present e rest).drive (eval e.cmd e.a e.b))) ∨
    (∃ e rest, s.queue = e :: rest ∧ e.held = false ∧ step s = .fault .inputsChanged) := by
  rcases hq : s.queue with _ | ⟨e, rest⟩
  · exact .inl ⟨rfl, step_idle hq⟩
  · cases hh : e.held with
    | true => exact .inr (.inl ⟨e, rest, rfl, hh, step_eq_drive_eval hq hh⟩)
    | false => exact .inr (.inr ⟨e, rest, rfl, hh, step_changed hq hh⟩)

/-- 70_reset_and_hazards.md R85: the host fault is exactly a presentation that was not held. -/
theorem step_eq_inputsChanged_iff {s : State} :
    step s = .fault .inputsChanged ↔ ∃ e rest, s.queue = e :: rest ∧ e.held = false := by
  refine ⟨fun hstep => ?_, fun ⟨_, _, hq, hh⟩ => step_changed hq hh⟩
  obtain ⟨-, hnext⟩ | ⟨_, _, -, -, hnext⟩ | ⟨e, rest, hq, hh, -⟩ := step_cases s
  · cases hnext.symm.trans hstep
  · cases hnext.symm.trans hstep
  · exact ⟨e, rest, hq, hh⟩

theorem step_ne_refused (s : State) (r : Refusal) : step s ≠ .refused r := by
  intro hstep
  obtain ⟨-, hanswer⟩ | ⟨_, _, -, -, hanswer⟩ | ⟨_, _, -, -, hanswer⟩ := step_cases s
  all_goals cases hanswer.symm.trans hstep

/-- With no evaluation recorded the ports owe nothing. -/
theorem portsAgree_of_trace_nil {s : State} (h : s.trace = []) : s.PortsAgree := by
  intro o ho
  rw [h, List.getLast?_nil] at ho
  cases ho

/-- With no evaluation recorded there is nothing to read, whatever STATUS shows. -/
theorem readRes_of_trace_nil {s : State} (h : s.trace = []) : s.readRes = none := by
  rw [State.readRes, h, List.getLast?_nil]

end Sys2Proof.Machine

namespace Sys2Proof.Proofs

open Sys2Proof.Machine

/-- Settles O9: of the three cases of `step_cases` only inputs not held stop the step, and none refuses. -/
theorem stepStopsOnlyOnChangedInputs : Obligations.StepStopsOnlyOnChangedInputs :=
  fun s => ⟨step_eq_inputsChanged_iff, step_ne_refused s, fun _ _ hq hh => ⟨_, step_eq_drive_eval hq hh⟩⟩

/-- Settles O15: each run records `Eval` of its own queue's inputs (`run_queue`), and the map keeps a permutation. -/
theorem orderOnlyPermutesOutcomes : Obligations.OrderOnlyPermutesOutcomes := by
  intro s q hs hperm
  have hq : State.HostHolds { s with queue := q } := fun e he => hs e (hperm.mem_iff.mpr he)
  obtain ⟨t, hrun, -, htrace⟩ := run_queue s hs
  obtain ⟨u, hrun', -, htrace'⟩ := run_queue { s with queue := q } hq
  refine ⟨t, u, hrun, hrun', ?_⟩
  rw [htrace, htrace']
  exact (hperm.map _).append_left s.trace

/-- Settles O12: the base case of `stepKeepsPortsAgree`, through the empty record of notes/assumptions/3.md. -/
theorem resetPortsAgree : Obligations.ResetPortsAgree := portsAgree_of_trace_nil rfl

/-- Settles O13: STATUS is a free value at power-up, so it is the empty record that leaves nothing to read. -/
theorem powerUpHasNoResult : Obligations.PowerUpHasNoResult :=
  ⟨rfl, rfl, readRes_of_trace_nil rfl⟩

end Sys2Proof.Proofs
